-- ==== Sys2Proof/Word.lean ====
section
/-! DEFINITION. The bit widths of the machine (spec/10_state.md R21, spec/00_scope.md R14): a word is 32 bits, a
half word 16, a byte 8, a double word 64; register numbers are 5-bit fields, condition code numbers 3-bit ones.
Everything a later test could show wrong stands in Decode.lean and Machine/, not here. -/
namespace Sys2Proof

/-- A 32-bit word: general registers, addresses, instruction words. -/
abbrev Word := BitVec 32
/-- A 16-bit half word: immediates and offsets. -/
abbrev Half := BitVec 16
/-- A byte of memory. -/
abbrev Byte := BitVec 8
/-- A 64-bit double word: the HI/LO pair, FPU values of format D. -/
abbrev DWord := BitVec 64
/-- A register number: general, CP0 or FPU (spec/10_state.md R21, R50). -/
abbrev Reg := BitVec 5
/-- A condition code number 0..7 (spec/10_state.md R53). -/
abbrev Cc := BitVec 3
/-- A physical address; PSIZE is 32 to 36 bits (spec/92_eei_decisions.md D2), so 36 bits hold every one. -/
abbrev PAddr := BitVec 36

end Sys2Proof
end

