-- ==== Sys2Proof/Syntax.lean ====
section
/-! DEFINITION. The instructions: one constructor per row of spec/opcode_table.json, its arguments the row's fields in
the order they stand in the word, from bit 31 down (spec/30_encoding.md R101, R103, R106). The last four constructors
are the assembler idioms of R125, whose words decode to BEQ, BGEZAL and SLL. -/
namespace Sys2Proof

/-- An instruction of RISCore32 (spec/00_scope.md R5). -/
inductive Instr where
  /-- ADD (R170). -/
  | add (rs : Reg) (rt : Reg) (rd : Reg)
  /-- ADDU (R171). -/
  | addu (rs : Reg) (rt : Reg) (rd : Reg)
  /-- SUB (R172). -/
  | sub (rs : Reg) (rt : Reg) (rd : Reg)
  /-- SUBU (R173). -/
  | subu (rs : Reg) (rt : Reg) (rd : Reg)
  /-- AND (R176). -/
  | and (rs : Reg) (rt : Reg) (rd : Reg)
  /-- OR (R177). -/
  | or (rs : Reg) (rt : Reg) (rd : Reg)
  /-- XOR (R178). -/
  | xor (rs : Reg) (rt : Reg) (rd : Reg)
  /-- NOR (R179). -/
  | nor (rs : Reg) (rt : Reg) (rd : Reg)
  /-- SLT (R174). -/
  | slt (rs : Reg) (rt : Reg) (rd : Reg)
  /-- SLTU (R175). -/
  | sltu (rs : Reg) (rt : Reg) (rd : Reg)
  /-- MOVN (R182). -/
  | movn (rs : Reg) (rt : Reg) (rd : Reg)
  /-- MOVZ (R183). -/
  | movz (rs : Reg) (rt : Reg) (rd : Reg)
  /-- SLLV (R193). -/
  | sllv (rs : Reg) (rt : Reg) (rd : Reg)
  /-- SRLV (R194). -/
  | srlv (rs : Reg) (rt : Reg) (rd : Reg)
  /-- SRAV (R195). -/
  | srav (rs : Reg) (rt : Reg) (rd : Reg)
  /-- SLL (R190). -/
  | sll (rt : Reg) (rd : Reg) (sa : BitVec 5)
  /-- SRL (R191). -/
  | srl (rt : Reg) (rd : Reg) (sa : BitVec 5)
  /-- SRA (R192). -/
  | sra (rt : Reg) (rd : Reg) (sa : BitVec 5)
  /-- MULT (R200). -/
  | mult (rs : Reg) (rt : Reg)
  /-- MULTU (R201). -/
  | multu (rs : Reg) (rt : Reg)
  /-- DIV (R208). -/
  | div (rs : Reg) (rt : Reg)
  /-- DIVU (R209). -/
  | divu (rs : Reg) (rt : Reg)
  /-- MFHI (R210). -/
  | mfhi (rd : Reg)
  /-- MFLO (R211). -/
  | mflo (rd : Reg)
  /-- MTHI (R212). -/
  | mthi (rs : Reg)
  /-- MTLO (R213). -/
  | mtlo (rs : Reg)
  /-- MADD (R203). -/
  | madd (rs : Reg) (rt : Reg)
  /-- MADDU (R204). -/
  | maddu (rs : Reg) (rt : Reg)
  /-- MSUB (R205). -/
  | msub (rs : Reg) (rt : Reg)
  /-- MSUBU (R206). -/
  | msubu (rs : Reg) (rt : Reg)
  /-- MUL (R202). -/
  | mul (rs : Reg) (rt : Reg) (rd : Reg)
  /-- CLZ (R181). -/
  | clz (rs : Reg) (rt : Reg) (rd : Reg)
  /-- CLO (R180). -/
  | clo (rs : Reg) (rt : Reg) (rd : Reg)
  /-- JR (R245). -/
  | jr (rs : Reg)
  /-- JALR (R246). -/
  | jalr (rs : Reg) (rd : Reg)
  /-- SYSCALL (R250). -/
  | syscall (code : BitVec 20)
  /-- BREAK (R251). -/
  | brk (code : BitVec 20)
  /-- SYNC (R252). -/
  | sync (stype : BitVec 5)
  /-- TGE (R254). -/
  | tge (rs : Reg) (rt : Reg) (code : BitVec 10)
  /-- TGEU (R255). -/
  | tgeu (rs : Reg) (rt : Reg) (code : BitVec 10)
  /-- TLT (R256). -/
  | tlt (rs : Reg) (rt : Reg) (code : BitVec 10)
  /-- TLTU (R257). -/
  | tltu (rs : Reg) (rt : Reg) (code : BitVec 10)
  /-- TEQ (R258). -/
  | teq (rs : Reg) (rt : Reg) (code : BitVec 10)
  /-- TNE (R259). -/
  | tne (rs : Reg) (rt : Reg) (code : BitVec 10)
  /-- ADDI (R160). -/
  | addi (rs : Reg) (rt : Reg) (imm : Half)
  /-- ADDIU (R161). -/
  | addiu (rs : Reg) (rt : Reg) (imm : Half)
  /-- SLTI (R162). -/
  | slti (rs : Reg) (rt : Reg) (imm : Half)
  /-- SLTIU (R163). -/
  | sltiu (rs : Reg) (rt : Reg) (imm : Half)
  /-- ANDI (R164). -/
  | andi (rs : Reg) (rt : Reg) (imm : Half)
  /-- ORI (R165). -/
  | ori (rs : Reg) (rt : Reg) (imm : Half)
  /-- XORI (R166). -/
  | xori (rs : Reg) (rt : Reg) (imm : Half)
  /-- LUI (R167). -/
  | lui (rt : Reg) (imm : Half)
  /-- LB (R141). -/
  | lb (base : Reg) (rt : Reg) (off : Half)
  /-- LH (R143). -/
  | lh (base : Reg) (rt : Reg) (off : Half)
  /-- LWL (R146). -/
  | lwl (base : Reg) (rt : Reg) (off : Half)
  /-- LW (R145). -/
  | lw (base : Reg) (rt : Reg) (off : Half)
  /-- LBU (R142). -/
  | lbu (base : Reg) (rt : Reg) (off : Half)
  /-- LHU (R144). -/
  | lhu (base : Reg) (rt : Reg) (off : Half)
  /-- LWR (R147). -/
  | lwr (base : Reg) (rt : Reg) (off : Half)
  /-- SB (R149). -/
  | sb (base : Reg) (rt : Reg) (off : Half)
  /-- SH (R150). -/
  | sh (base : Reg) (rt : Reg) (off : Half)
  /-- SWL (R152). -/
  | swl (base : Reg) (rt : Reg) (off : Half)
  /-- SW (R151). -/
  | sw (base : Reg) (rt : Reg) (off : Half)
  /-- SWR (R153). -/
  | swr (base : Reg) (rt : Reg) (off : Half)
  /-- LL (R148). -/
  | ll (base : Reg) (rt : Reg) (off : Half)
  /-- SC (R154). -/
  | sc (base : Reg) (rt : Reg) (off : Half)
  /-- BEQ (R225). -/
  | beq (rs : Reg) (rt : Reg) (off : Half)
  /-- BNE (R226). -/
  | bne (rs : Reg) (rt : Reg) (off : Half)
  /-- BEQL (R233). -/
  | beql (rs : Reg) (rt : Reg) (off : Half)
  /-- BNEL (R234). -/
  | bnel (rs : Reg) (rt : Reg) (off : Half)
  /-- BLEZ (R227). -/
  | blez (rs : Reg) (off : Half)
  /-- BGTZ (R228). -/
  | bgtz (rs : Reg) (off : Half)
  /-- BLEZL (R235). -/
  | blezl (rs : Reg) (off : Half)
  /-- BGTZL (R236). -/
  | bgtzl (rs : Reg) (off : Half)
  /-- BLTZ (R229). -/
  | bltz (rs : Reg) (off : Half)
  /-- BGEZ (R230). -/
  | bgez (rs : Reg) (off : Half)
  /-- BLTZL (R237). -/
  | bltzl (rs : Reg) (off : Half)
  /-- BGEZL (R238). -/
  | bgezl (rs : Reg) (off : Half)
  /-- BLTZAL (R231). -/
  | bltzal (rs : Reg) (off : Half)
  /-- BGEZAL (R232). -/
  | bgezal (rs : Reg) (off : Half)
  /-- BLTZALL (R239). -/
  | bltzall (rs : Reg) (off : Half)
  /-- BGEZALL (R240). -/
  | bgezall (rs : Reg) (off : Half)
  /-- TGEI (R260). -/
  | tgei (rs : Reg) (imm : Half)
  /-- TGEIU (R261). -/
  | tgeiu (rs : Reg) (imm : Half)
  /-- TLTI (R262). -/
  | tlti (rs : Reg) (imm : Half)
  /-- TLTIU (R263). -/
  | tltiu (rs : Reg) (imm : Half)
  /-- TEQI (R264). -/
  | teqi (rs : Reg) (imm : Half)
  /-- TNEI (R265). -/
  | tnei (rs : Reg) (imm : Half)
  /-- J (R243). -/
  | j (idx : BitVec 26)
  /-- JAL (R244). -/
  | jal (idx : BitVec 26)
  /-- MFC0 (R270). -/
  | mfc0 (rt : Reg) (rd : Reg)
  /-- MTC0 (R271). -/
  | mtc0 (rt : Reg) (rd : Reg)
  /-- TLBR (R273). -/
  | tlbr
  /-- TLBWI (R274). -/
  | tlbwi
  /-- TLBWR (R275). -/
  | tlbwr
  /-- TLBP (R276). -/
  | tlbp
  /-- ERET (R266). -/
  | eret
  /-- WAIT (R277). -/
  | wait (code : BitVec 19)
  /-- LWC1 (R282). -/
  | lwc1 (base : Reg) (ft : Reg) (off : Half)
  /-- LDC1 (R283). -/
  | ldc1 (base : Reg) (ft : Reg) (off : Half)
  /-- SWC1 (R284). -/
  | swc1 (base : Reg) (ft : Reg) (off : Half)
  /-- SDC1 (R285). -/
  | sdc1 (base : Reg) (ft : Reg) (off : Half)
  /-- MFC1 (R286). -/
  | mfc1 (rt : Reg) (fs : Reg)
  /-- CFC1 (R288). -/
  | cfc1 (rt : Reg) (fs : Reg)
  /-- MTC1 (R287). -/
  | mtc1 (rt : Reg) (fs : Reg)
  /-- CTC1 (R289). -/
  | ctc1 (rt : Reg) (fs : Reg)
  /-- BC1F (R324). -/
  | bc1f (cc : Cc) (off : Half)
  /-- BC1FL (R325). -/
  | bc1fl (cc : Cc) (off : Half)
  /-- BC1T (R326). -/
  | bc1t (cc : Cc) (off : Half)
  /-- BC1TL (R327). -/
  | bc1tl (cc : Cc) (off : Half)
  /-- ADD.S (R307). -/
  | addS (ft : Reg) (fs : Reg) (fd : Reg)
  /-- ADD.D (R307). -/
  | addD (ft : Reg) (fs : Reg) (fd : Reg)
  /-- SUB.S (R308). -/
  | subS (ft : Reg) (fs : Reg) (fd : Reg)
  /-- SUB.D (R308). -/
  | subD (ft : Reg) (fs : Reg) (fd : Reg)
  /-- MUL.S (R309). -/
  | mulS (ft : Reg) (fs : Reg) (fd : Reg)
  /-- MUL.D (R309). -/
  | mulD (ft : Reg) (fs : Reg) (fd : Reg)
  /-- DIV.S (R310). -/
  | divS (ft : Reg) (fs : Reg) (fd : Reg)
  /-- DIV.D (R310). -/
  | divD (ft : Reg) (fs : Reg) (fd : Reg)
  /-- SQRT.S (R311). -/
  | sqrtS (fs : Reg) (fd : Reg)
  /-- SQRT.D (R311). -/
  | sqrtD (fs : Reg) (fd : Reg)
  /-- ABS.S (R305). -/
  | absS (fs : Reg) (fd : Reg)
  /-- ABS.D (R305). -/
  | absD (fs : Reg) (fd : Reg)
  /-- MOV.S (R291). -/
  | movS (fs : Reg) (fd : Reg)
  /-- MOV.D (R291). -/
  | movD (fs : Reg) (fd : Reg)
  /-- NEG.S (R306). -/
  | negS (fs : Reg) (fd : Reg)
  /-- NEG.D (R306). -/
  | negD (fs : Reg) (fd : Reg)
  /-- ROUND.W.S (R319). -/
  | roundWS (fs : Reg) (fd : Reg)
  /-- ROUND.W.D (R319). -/
  | roundWD (fs : Reg) (fd : Reg)
  /-- TRUNC.W.S (R320). -/
  | truncWS (fs : Reg) (fd : Reg)
  /-- TRUNC.W.D (R320). -/
  | truncWD (fs : Reg) (fd : Reg)
  /-- CEIL.W.S (R321). -/
  | ceilWS (fs : Reg) (fd : Reg)
  /-- CEIL.W.D (R321). -/
  | ceilWD (fs : Reg) (fd : Reg)
  /-- FLOOR.W.S (R328). -/
  | floorWS (fs : Reg) (fd : Reg)
  /-- FLOOR.W.D (R328). -/
  | floorWD (fs : Reg) (fd : Reg)
  /-- CVT.W.S (R318). -/
  | cvtWS (fs : Reg) (fd : Reg)
  /-- CVT.W.D (R318). -/
  | cvtWD (fs : Reg) (fd : Reg)
  /-- CVT.S.D (R317). -/
  | cvtSD (fs : Reg) (fd : Reg)
  /-- CVT.S.W (R317). -/
  | cvtSW (fs : Reg) (fd : Reg)
  /-- CVT.D.S (R316). -/
  | cvtDS (fs : Reg) (fd : Reg)
  /-- CVT.D.W (R316). -/
  | cvtDW (fs : Reg) (fd : Reg)
  /-- MOVF.S (R292). -/
  | movfS (cc : Cc) (fs : Reg) (fd : Reg)
  /-- MOVF.D (R292). -/
  | movfD (cc : Cc) (fs : Reg) (fd : Reg)
  /-- MOVT.S (R293). -/
  | movtS (cc : Cc) (fs : Reg) (fd : Reg)
  /-- MOVT.D (R293). -/
  | movtD (cc : Cc) (fs : Reg) (fd : Reg)
  /-- MOVZ.S (R295). -/
  | movzS (rt : Reg) (fs : Reg) (fd : Reg)
  /-- MOVZ.D (R295). -/
  | movzD (rt : Reg) (fs : Reg) (fd : Reg)
  /-- MOVN.S (R294). -/
  | movnS (rt : Reg) (fs : Reg) (fd : Reg)
  /-- MOVN.D (R294). -/
  | movnD (rt : Reg) (fs : Reg) (fd : Reg)
  /-- C.F.S (R312). -/
  | cFS (ft : Reg) (fs : Reg) (cc : Cc)
  /-- C.F.D (R312). -/
  | cFD (ft : Reg) (fs : Reg) (cc : Cc)
  /-- C.UN.S (R312). -/
  | cUnS (ft : Reg) (fs : Reg) (cc : Cc)
  /-- C.UN.D (R312). -/
  | cUnD (ft : Reg) (fs : Reg) (cc : Cc)
  /-- C.EQ.S (R312). -/
  | cEqS (ft : Reg) (fs : Reg) (cc : Cc)
  /-- C.EQ.D (R312). -/
  | cEqD (ft : Reg) (fs : Reg) (cc : Cc)
  /-- C.UEQ.S (R312). -/
  | cUeqS (ft : Reg) (fs : Reg) (cc : Cc)
  /-- C.UEQ.D (R312). -/
  | cUeqD (ft : Reg) (fs : Reg) (cc : Cc)
  /-- C.OLT.S (R312). -/
  | cOltS (ft : Reg) (fs : Reg) (cc : Cc)
  /-- C.OLT.D (R312). -/
  | cOltD (ft : Reg) (fs : Reg) (cc : Cc)
  /-- C.ULT.S (R312). -/
  | cUltS (ft : Reg) (fs : Reg) (cc : Cc)
  /-- C.ULT.D (R312). -/
  | cUltD (ft : Reg) (fs : Reg) (cc : Cc)
  /-- C.OLE.S (R312). -/
  | cOleS (ft : Reg) (fs : Reg) (cc : Cc)
  /-- C.OLE.D (R312). -/
  | cOleD (ft : Reg) (fs : Reg) (cc : Cc)
  /-- C.ULE.S (R312). -/
  | cUleS (ft : Reg) (fs : Reg) (cc : Cc)
  /-- C.ULE.D (R312). -/
  | cUleD (ft : Reg) (fs : Reg) (cc : Cc)
  /-- C.SF.S (R312). -/
  | cSfS (ft : Reg) (fs : Reg) (cc : Cc)
  /-- C.SF.D (R312). -/
  | cSfD (ft : Reg) (fs : Reg) (cc : Cc)
  /-- C.NGLE.S (R312). -/
  | cNgleS (ft : Reg) (fs : Reg) (cc : Cc)
  /-- C.NGLE.D (R312). -/
  | cNgleD (ft : Reg) (fs : Reg) (cc : Cc)
  /-- C.SEQ.S (R312). -/
  | cSeqS (ft : Reg) (fs : Reg) (cc : Cc)
  /-- C.SEQ.D (R312). -/
  | cSeqD (ft : Reg) (fs : Reg) (cc : Cc)
  /-- C.NGL.S (R312). -/
  | cNglS (ft : Reg) (fs : Reg) (cc : Cc)
  /-- C.NGL.D (R312). -/
  | cNglD (ft : Reg) (fs : Reg) (cc : Cc)
  /-- C.LT.S (R312). -/
  | cLtS (ft : Reg) (fs : Reg) (cc : Cc)
  /-- C.LT.D (R312). -/
  | cLtD (ft : Reg) (fs : Reg) (cc : Cc)
  /-- C.NGE.S (R312). -/
  | cNgeS (ft : Reg) (fs : Reg) (cc : Cc)
  /-- C.NGE.D (R312). -/
  | cNgeD (ft : Reg) (fs : Reg) (cc : Cc)
  /-- C.LE.S (R312). -/
  | cLeS (ft : Reg) (fs : Reg) (cc : Cc)
  /-- C.LE.D (R312). -/
  | cLeD (ft : Reg) (fs : Reg) (cc : Cc)
  /-- C.NGT.S (R312). -/
  | cNgtS (ft : Reg) (fs : Reg) (cc : Cc)
  /-- C.NGT.D (R312). -/
  | cNgtD (ft : Reg) (fs : Reg) (cc : Cc)
  /-- B (R241). -/
  | b (off : Half)
  /-- BAL (R242). -/
  | bal (off : Half)
  /-- NOP (R196). -/
  | nop
  /-- SSNOP (R197). -/
  | ssnop
deriving DecidableEq, Repr

end Sys2Proof
end

