-- ==== Sys2Proof/Config.lean ====
section
/-! DEFINITION. What an implementation fixes (spec/92_eei_decisions.md, the open parameters) and what the spec leaves
free. The parameters are plain data held in the state, so that a statement over all states holds for every choice of
them. The free values are constants without a body: nothing in Lean can prove anything of them. -/
namespace Sys2Proof

/-- How subnormal numbers are treated (spec/49_fpu_arith.md R300(c)). -/
inductive DenormMode where
  /-- Gradual underflow of IEEE 754; the default. -/
  | ieee
  /-- A subnormal operand or result raises Unimplemented Operation. -/
  | unimplemented
deriving DecidableEq, Repr

/-- A floating-point format of the fmt field (spec/30_encoding.md R107). -/
inductive Fmt where
  /-- Single, 32 bits. -/
  | s
  /-- Double, 64 bits. -/
  | d
  /-- Word, a 32-bit fixed-point number. -/
  | w
deriving DecidableEq, Repr

/-- A range of physical addresses where the platform rejects accesses of some kinds and widths. A list of these can say
any PhysAdmits(pAddr, n, op), one aligned access to an entry (spec/20_memory.md R60, R80). -/
structure PhysHole where
  /-- The first address. -/
  base : Nat
  /-- How many bytes. -/
  size : Nat
  /-- The widths n, in bytes, of the accesses that are rejected. -/
  widths : List Nat
  /-- Fetches are rejected. -/
  fetches : Bool
  /-- Loads are rejected. -/
  loads : Bool
  /-- Stores are rejected. -/
  stores : Bool
deriving DecidableEq, Repr

/-- One case of FPUnimplemented(instruction, operand values): the instruction and the values of its operands, each
zero-extended, 0 where there is none (spec/49_fpu_arith.md R302). Which values are the operands of a move or a branch is
the model's reading, DESIGN CHOICE (log 28). -/
structure FpuCase where
  /-- The instruction, with all its fields. -/
  instr : Instr
  /-- The value of fs; of a branch, the condition code's bit. -/
  a : BitVec 64
  /-- The value of ft; of a conditional move, GPR[rt] or the condition code's bit. -/
  b : BitVec 64
  /-- Of a conditional move, the value of fd before it. -/
  c : BitVec 64
deriving DecidableEq, Repr

/-- The open parameters of spec/92_eei_decisions.md; TLBEntries is the length of the state's TLB. -/
structure Params where
  /-- BigEndianMem (spec/20_memory.md R61). -/
  bigEndianMem : Bool
  /-- PSIZE (spec/00_scope.md R6). -/
  psize : Nat
  /-- PageMaskLegal (spec/10_state.md R42). -/
  pageMaskLegal : List (BitVec 16)
  /-- RESET_PC (spec/10_state.md R31). -/
  resetPc : Word
  /-- VEC_BASE_NORMAL (spec/60_exceptions.md R351). -/
  vecBaseNormal : Word
  /-- VEC_BASE_BOOT (spec/60_exceptions.md R351). -/
  vecBaseBoot : Word
  /-- PRID_LOW16 (spec/10_state.md R47). -/
  pridLow16 : BitVec 16
  /-- CONFIG_VALUE, of which the bits R48 leaves to the implementation count (spec/10_state.md R48). -/
  configValue : Word
  /-- The value of Config1, of which all but CA counts (spec/10_state.md R48). -/
  config1Value : Word
  /-- FIR_VALUE (spec/10_state.md R55). -/
  firValue : Word
  /-- LLBlockSize (spec/20_memory.md R84(a)). -/
  llBlockSize : Nat
  /-- NAN2008 (spec/49_fpu_arith.md R300(a)). -/
  nan2008 : Bool
  /-- DenormMode (spec/49_fpu_arith.md R300(c)). -/
  denormMode : DenormMode
  /-- ABSNEG_QNAN_INVALID (spec/49_fpu_arith.md R305). -/
  absNegQnanInvalid : Bool
  /-- FPUnimplemented, as the list of its cases (spec/49_fpu_arith.md R302). -/
  fpUnimplemented : List FpuCase
  /-- PhysAdmits, as the ranges it rejects (spec/20_memory.md R60). -/
  physHoles : List PhysHole
  /-- HasTimer (spec/60_exceptions.md R368). -/
  hasTimer : Bool
  /-- How far Count moves in one step, when there is a timer (spec/60_exceptions.md R368). -/
  countRate : Nat
deriving DecidableEq, Repr

/-- The defaults of spec/92_eei_decisions.md. Where it gives none (BigEndianMem, PRID_LOW16, CONFIG_VALUE,
Config1, FIR_VALUE, the timer's rate) the value is a DESIGN CHOICE (log 7): big-endian memory, zero revisions, a Config
register with the fields of spec/10_state.md R48 (M, BE and MT) and nothing else, a zero Config1. -/
def Params.default : Params where
  bigEndianMem := true
  psize := 32
  pageMaskLegal := [0]
  resetPc := 0xBFC00000
  vecBaseNormal := 0x80000000
  vecBaseBoot := 0xBFC00200
  pridLow16 := 0
  configValue := 0x80008080
  config1Value := 0
  firValue := 0
  llBlockSize := 4
  nan2008 := false
  denormMode := .ieee
  absNegQnanInvalid := true
  fpUnimplemented := []
  physHoles := []
  hasTimer := false
  countRate := 1

/-- Config's bits that spec/10_state.md R48 fixes: M, BE, AT, AR, MT. -/
def Params.configFixed (p : Params) : Word := if p.bigEndianMem then 0x80008080 else 0x80000080

/-- Config at reset: the bits R48 fixes (M = 1, BE = BigEndianMem, AT = AR = 0, MT = 1), the rest from CONFIG_VALUE
(spec/10_state.md R48). -/
def Params.configReset (p : Params) : Word := (p.configValue &&& 0x7FFF007F) ||| p.configFixed

/-- Config1: CA is 0 (spec/10_state.md R48); that it is bit 2 is PRESUMED, as in MIPS32 (log 7). -/
def Params.config1Reset (p : Params) : Word := p.config1Value &&& 0xFFFFFFFB

/-- The places where the spec leaves a value open: each names one free value of one step. -/
inductive DrawSite where
  /-- rs read in the load delay (spec/93_implementation_defined.md U2). -/
  | delayRs
  /-- rt read in the load delay (U2). -/
  | delayRt
  /-- HI after MUL, after a division by zero, or as the stale half of the pair (U3, U4, U7). -/
  | hiValue
  /-- LO in the same cases (U3, U4, U7). -/
  | loValue
  /-- What the older MFHI or MFLO of the window delivered (U6). -/
  | window2
  /-- What the younger MFHI or MFLO of the window delivered (U6). -/
  | window1
  /-- MFC0 of a register that does not exist (U9). -/
  | cp0Absent
  /-- CFC1 of a control register that does not exist (U16). -/
  | fcrAbsent
  /-- Random (spec/10_state.md R40). -/
  | random
  /-- Whether the link survives a load or store (U11). -/
  | linkDisturbed
  /-- Whether an SC outside its conditions succeeds (U10, U11). -/
  | scOutcome
  /-- The first operand of an FPU operation that is not in its format (U20). -/
  | fprFirst
  /-- The second operand of an FPU operation that is not in its format (U20). -/
  | fprSecond
  /-- What the first such operand's register holds afterwards (U20). -/
  | spoilFirst
  /-- What the second such operand's register holds afterwards (U20). -/
  | spoilSecond
  /-- The result of an FPU operation on an operand that is not in its format (U20). -/
  | fprResult
  /-- The condition of a compare on an operand that is not in its format (U20). -/
  | fpCondition
  /-- The quiet NaN of a result (U22). -/
  | quietNan
  /-- Index after a TLBP that several entries match (spec/70_reset_and_hazards.md R384, U12). -/
  | probe
  /-- The VPN2 bits under the mask that TLBR reads back (U30). -/
  | tlbrVpn2
  /-- The PFN bits of the even page under the mask that TLBR reads back (U30). -/
  | tlbrEven
  /-- The PFN bits of the odd page under the mask that TLBR reads back (U30). -/
  | tlbrOdd
deriving DecidableEq, Repr

/-- The free values: one for each place and each step (the number is the step's draw counter). No body (log 10). -/
opaque Config.draw : DrawSite → Nat → BitVec 64

/-- What a byte of memory that nothing has written holds: one free value for each address, drawn once
(spec/93_implementation_defined.md U40). No body (log 9). -/
opaque Config.powerOnByte : Nat → Byte

end Sys2Proof
end

