-- ==== Sys2Proof/Machine/State.lean ====
section
/-! DEFINITION. Everything the spec gives the machine to hold (spec/10_state.md), as plain data, and the state after
reset (R59, spec/70_reset_and_hazards.md R380). -/
namespace Sys2Proof.Machine

/-- A stop of the machine: the spec calls the whole operation UNDEFINED on this state. Safe: the machine does nothing
more, so nothing can be proved of what the hardware does there. -/
inductive Fault where
  /-- Raised by translation when two TLB entries match one address (spec/20_memory.md R72, U12). Safe. -/
  | tlbMultipleMatch
  /-- Raised by TLBR and TLBWI when Index is not below TLBEntries (spec/47_cp0.md R273, R274, U13). Safe. -/
  | tlbIndexOutOfRange
  /-- Raised by TLBWI and TLBWR when PageMask is not a supported mask (spec/47_cp0.md R274, U30). Safe. -/
  | pageMaskUnsupported
deriving DecidableEq, Repr

/-- A refusal: the spec calls the whole instruction UNPREDICTABLE or UNDEFINED in this form. Safe: there is no next
state, so no claim is made about it. -/
inductive Refusal where
  /-- An instruction of the table without a meaning yet, by its mnemonic. Safe. -/
  | notModelled (mnemonic : String)
  /-- A branch, jump, ERET or WAIT in a delay slot (spec/10_state.md R29, U1). Safe. -/
  | controlInDelaySlot
  /-- CLO or CLZ with rt and rd different (spec/30_encoding.md R123, U5). Safe. -/
  | countRegistersDiffer
  /-- A linking branch with rs = 31, or JALR with rs = rd (spec/45_branch_jump.md R221, R246, U8). Safe. -/
  | linkRegisterIsSource
  /-- MTC0 to a CP0 register that does not exist (spec/47_cp0.md R271, U9). Safe. -/
  | cp0RegisterAbsent
  /-- MTC0 of KSU = 01 or 11 to Status (spec/60_exceptions.md R365, U9). Safe. -/
  | statusModeReserved
  /-- CTC1 to a control register that cannot be written, or of bits its page forbids (spec/48_fpu_move.md R289, U16). Safe. -/
  | ctc1Unpredictable
  /-- An odd register number for a double word (spec/10_state.md R50, U21). Safe. -/
  | oddDoubleRegister
deriving DecidableEq, Repr

/-- The physical memory: the bytes something has written, by rising address (spec/20_memory.md R60). -/
abbrev Memory := List Host.Cell

/-- One page of a TLB entry's pair (spec/10_state.md R49). -/
structure TlbPage where
  /-- Physical frame number, address bits 35..12. -/
  pfn : BitVec 24
  /-- Cache coherency attribute. -/
  c : BitVec 3
  /-- Dirty: stores are allowed. -/
  d : Bool
  /-- Valid. -/
  v : Bool
deriving DecidableEq, Repr

/-- A TLB entry (spec/10_state.md R49). -/
structure TlbEntry where
  /-- Mask, from PageMask. -/
  mask : BitVec 16
  /-- The page pair's number, address bits 31..13. -/
  vpn2 : BitVec 19
  /-- Global: the entry matches in every address space. -/
  g : Bool
  /-- Address space identifier. -/
  asid : BitVec 8
  /-- PFN0, C0, D0, V0. -/
  even : TlbPage
  /-- PFN1, C1, D1, V1. -/
  odd : TlbPage
deriving DecidableEq, Repr

/-- The CP0 registers that have storage (spec/10_state.md R38 to R48), each the 32-bit word software sees. -/
structure Cp0 where
  /-- Register 0 (R39). -/
  index : Word
  /-- Register 1 (R40). -/
  random : Word
  /-- Register 2 (R41). -/
  entryLo0 : Word
  /-- Register 3 (R41). -/
  entryLo1 : Word
  /-- Register 5 (R42). -/
  pageMask : Word
  /-- Register 6 (R40). -/
  wired : Word
  /-- Register 8 (R46). -/
  badVAddr : Word
  /-- Register 9, with the timer only (spec/60_exceptions.md R368). -/
  count : Word
  /-- Register 10 (R43). -/
  entryHi : Word
  /-- Register 11, with the timer only (spec/60_exceptions.md R368). -/
  compare : Word
  /-- Register 12 (R44). -/
  status : Word
  /-- Register 13 (R46). -/
  cause : Word
  /-- Register 14 (R45). -/
  epc : Word
  /-- Register 16 (R48). -/
  config : Word
  /-- Config1, select 1 of register 16, which no instruction reaches: a constant (R38, R48). -/
  config1 : Word
  /-- Register 30 (R45). -/
  errorEpc : Word
  /-- The timer's request, held until Compare is written (spec/60_exceptions.md R368). -/
  timerRequest : Bool
deriving DecidableEq, Repr

/-- The format an FPU register was last written in (a ghost of the model, spec/10_state.md R51). -/
inductive FprTag where
  /-- Single. -/
  | s
  /-- Half of a double. -/
  | d
  /-- Word. -/
  | w
  /-- A word from MTC1 or LWC1, not interpreted yet. -/
  | rawWord
  /-- Half of a double word from LDC1, not interpreted yet. -/
  | rawDouble
  /-- No known format. -/
  | unknown
deriving DecidableEq, Repr

/-- An MFHI or MFLO of the last two instructions (a ghost of the model, spec/44_muldiv.md R214). -/
structure HiLoRead where
  /-- It was MFHI. -/
  fromHi : Bool
  /-- The general register it wrote. -/
  rd : Reg
deriving DecidableEq, Repr

/-- A reset input (spec/60_exceptions.md R357). -/
inductive ResetEvent where
  /-- None: an ordinary step. -/
  | none
  /-- Reset. -/
  | reset
  /-- Soft reset. -/
  | softReset
  /-- Non-maskable interrupt. -/
  | nmi
deriving DecidableEq, Repr

/-- What the outside world does at one step (spec/10_state.md R20): the model's own, not the spec's. -/
structure EnvStep where
  /-- The six interrupt lines (spec/60_exceptions.md R360). -/
  irq : BitVec 6
  /-- A reset input, if any. -/
  event : ResetEvent
  /-- Bytes other agents write coherently (spec/20_memory.md R84). -/
  writes : List Host.Cell
deriving DecidableEq, Repr

/-- The state of the machine (spec/10_state.md R59), and at its end the model's own fields. -/
structure State where
  /-- GPR[0..31]; entry 0 is never read (R21, R22). -/
  gpr : Vector Word 32
  /-- The address of the instruction to execute (R25). -/
  pc : Word
  /-- The next-fetch address (R26). -/
  npc : Word
  /-- The instruction at pc stands in a delay slot (R26). -/
  inDelaySlot : Bool
  /-- The register the previous instruction loaded (R32). -/
  loadPending : Option Reg
  /-- HI (R34). -/
  hi : Word
  /-- LO (R34). -/
  lo : Word
  /-- HI and LO hold one result that has not been read (R34). -/
  pairFresh : Bool
  /-- The previous instruction, if it was MFHI or MFLO (R34). -/
  hist1 : Option HiLoRead
  /-- The instruction before that, if it was MFHI or MFLO (R34). -/
  hist2 : Option HiLoRead
  /-- LLbit (R35). -/
  llBit : Bool
  /-- The physical address of the last LL (R35). -/
  llAddr : PAddr
  /-- The virtual address of the last LL (spec/20_memory.md R84(c)). -/
  llVa : Word
  /-- The cache-coherency attribute of the last LL's access (spec/20_memory.md R84(c)). -/
  llAttr : BitVec 3
  /-- The lowest address of an instruction executed since the LL (spec/20_memory.md R84(b)). -/
  llLo : Word
  /-- The highest address of an instruction executed since the LL (spec/20_memory.md R84(b)). -/
  llHi : Word
  /-- The CP0 registers (R38). -/
  cp0 : Cp0
  /-- The TLB; TLBEntries is its length (R49). -/
  tlb : List TlbEntry
  /-- FPR[0..31] (R50). -/
  fpr : Vector Word 32
  /-- The format tag of each FPR (R51). -/
  fprTag : Vector FprTag 32
  /-- FCSR (R54). -/
  fcsr : Word
  /-- Physical memory (R57, spec/20_memory.md R60). -/
  mem : Memory
  /-- WAIT has stopped the core (R58). -/
  waiting : Bool
  /-- The parameters of the implementation, constant during a run (spec/92_eei_decisions.md). -/
  cfg : Params
  /-- The inputs of the coming steps: the model's own field. -/
  env : List EnvStep
  /-- The draw counter of the free values, advanced by every step: the model's own field. -/
  draws : Nat
deriving DecidableEq, Repr

/-- TLBEntries (spec/00_scope.md R6). -/
def State.tlbEntries (s : State) : Nat := s.tlb.length

/-- An entry that is not valid and matches no address that entry i + 1 matches: the contents spec/70_reset_and_hazards.md
R384 asks boot software to write. DESIGN CHOICE (log 5). -/
def TlbEntry.atReset (i : Nat) : TlbEntry where
  mask := 0
  vpn2 := BitVec.ofNat 19 (0x40000 + i)
  g := false
  asid := 0
  even := ⟨0, 0, false, false⟩
  odd := ⟨0, 0, false, false⟩

/-- The CP0 registers after reset: Status, Random and Wired as spec/10_state.md R59 says, the rest 0 by DESIGN CHOICE
(log 3). -/
def Cp0.reset (cfg : Params) (entries : Nat) : Cp0 where
  index := 0
  random := BitVec.ofNat 32 (entries - 1)
  entryLo0 := 0
  entryLo1 := 0
  pageMask := 0
  wired := 0
  badVAddr := 0
  count := 0
  entryHi := 0
  compare := 0
  status := 0x00400004
  cause := 0
  epc := 0
  config := cfg.configReset
  config1 := cfg.config1Reset
  errorEpc := 0
  timerRequest := false

/-- The state after reset of a machine with these parameters and this many TLB entries (spec/10_state.md R59). What R59
calls unspecified is 0 by DESIGN CHOICE (log 1 to 6). -/
def State.resetWith (cfg : Params) (entries : Nat) : State where
  gpr := Vector.replicate 32 0
  pc := cfg.resetPc
  npc := cfg.resetPc + 4
  inDelaySlot := false
  loadPending := none
  hi := 0
  lo := 0
  pairFresh := false
  hist1 := none
  hist2 := none
  llBit := false
  llAddr := 0
  llVa := 0
  llAttr := 0
  llLo := 0
  llHi := 0
  cp0 := Cp0.reset cfg entries
  tlb := (List.range entries).map TlbEntry.atReset
  fpr := Vector.replicate 32 0
  fprTag := Vector.replicate 32 .unknown
  fcsr := 0
  mem := []
  waiting := false
  cfg := cfg
  env := []
  draws := 0

/-- The machine right after reset (spec/70_reset_and_hazards.md R380), with the default parameters and 16 TLB entries. -/
def State.reset : State := State.resetWith Params.default 16

end Sys2Proof.Machine
end

