-- ==== Sys2Proof/Machine/Ops.lean ====
section
/-! DEFINITION. The operations over the state that the meanings share: registers, the end of an instruction, taking an
exception and returning from one, memory, translation. Each cites the rule it follows. -/
namespace Sys2Proof.Machine

/-- What a meaning answers. -/
abbrev Result := Host.Outcome State Fault Refusal

/-! ## Bits of a word -/

/-- The word with bit i made b. -/
def putBit (w : Word) (i : Nat) (b : Bool) : Word :=
  if b then w ||| (1#32 <<< i) else w &&& ~~~(1#32 <<< i)

/-- The bits of new where mask is 1, of old where it is 0. -/
def blend (mask new old : Word) : Word := (new &&& mask) ||| (old &&& ~~~mask)

/-! ## Free values (log 10) -/

/-- The free value of this step at a place the spec leaves open. -/
def State.free (s : State) (site : DrawSite) : BitVec 64 := Config.draw site s.draws

/-- A free word. -/
def State.freeWord (s : State) (site : DrawSite) : Word := (s.free site).setWidth 32

/-- A free bit. -/
def State.freeBit (s : State) (site : DrawSite) : Bool := (s.free site).getLsbD 0

/-! ## General registers (spec/10_state.md R21, R22) -/

/-- GPR[r]; GPR[0] reads 0. -/
def State.readGpr (s : State) (r : Reg) : Word := if r = 0 then 0 else s.gpr[r.toNat]

/-- GPR[r] <- v; a write of GPR[0] writes nothing. -/
def State.writeGpr (s : State) (r : Reg) (v : Word) : State :=
  if r = 0 then s else { s with gpr := s.gpr.set r.toNat v }

/-! ## The end of an instruction (spec/10_state.md R26, R32) -/

/-- An entry of the MFHI/MFLO history after an instruction that writes these registers: a value that is overwritten is
forgotten (spec/44_muldiv.md R214); register 0 is never overwritten (spec/10_state.md R22). -/
def HiLoRead.noteWrites (writes : List Reg) (e : HiLoRead) : Option HiLoRead :=
  if e.rd ∈ writes ∧ e.rd ≠ 0 then none else some e

/-- The extent of the instructions executed since an LL, this one included (spec/20_memory.md R84(b)). -/
def State.noteExtent (s : State) : State :=
  if s.llBit then
    { s with llLo := if s.pc < s.llLo then s.pc else s.llLo, llHi := if s.llHi < s.pc then s.pc else s.llHi }
  else s

/-- The instruction completes, writing these general registers: the next one follows, in no delay slot, no load pending
(spec/10_state.md R26 step 3, R32), and the histories move on. Every completed instruction ages the MFHI/MFLO history,
those of an exception handler too, where spec/44_muldiv.md R214 counts the instructions 'of the same stream' and does
not say whether a handler is one: DESIGN CHOICE (log 44). -/
def State.retire (s : State) (writes : List Reg) : State :=
  { s.noteExtent with
    pc := s.npc
    npc := s.npc + 4
    inDelaySlot := false
    loadPending := none
    hist1 := none
    hist2 := s.hist1.bind (HiLoRead.noteWrites writes) }

/-- The instruction at pc is at address cur of a taken branch or jump to target (spec/10_state.md R26). After retire. -/
def State.jumpTo (s : State) (target : Word) : State := { s with npc := target, inDelaySlot := true }

/-- A branch that is not taken: the next instruction stands in its delay slot all the same (spec/10_state.md R26). -/
def State.fallThrough (s : State) : State := { s with inDelaySlot := true }

/-- nullify_delay_slot of the branch at cur (spec/10_state.md R27). -/
def State.nullifySlot (s : State) (cur : Word) : State :=
  { s with pc := cur + 8, npc := cur + 12, inDelaySlot := false }

/-! ## Status and Cause (spec/10_state.md R44, R46) -/

/-- Status.IE. -/
def Cp0.ie (c : Cp0) : Bool := c.status.getLsbD 0
/-- Status.EXL. -/
def Cp0.exl (c : Cp0) : Bool := c.status.getLsbD 1
/-- Status.ERL. -/
def Cp0.erl (c : Cp0) : Bool := c.status.getLsbD 2
/-- Status.KSU. -/
def Cp0.ksu (c : Cp0) : BitVec 2 := c.status.extractLsb' 3 2
/-- Status.IM. -/
def Cp0.im (c : Cp0) : BitVec 8 := c.status.extractLsb' 8 8
/-- Status.BEV. -/
def Cp0.bev (c : Cp0) : Bool := c.status.getLsbD 22
/-- Status.RE. -/
def Cp0.re (c : Cp0) : Bool := c.status.getLsbD 25
/-- Status.CU0. -/
def Cp0.cu0 (c : Cp0) : Bool := c.status.getLsbD 28
/-- Status.CU1. -/
def Cp0.cu1 (c : Cp0) : Bool := c.status.getLsbD 29
/-- Cause.IP. -/
def Cp0.ip (c : Cp0) : BitVec 8 := c.cause.extractLsb' 8 8
/-- Cause.IV. -/
def Cp0.iv (c : Cp0) : Bool := c.cause.getLsbD 23

/-- User mode; every other mode is kernel mode (spec/60_exceptions.md R365). -/
def State.userMode (s : State) : Bool := s.cp0.ksu = 2#2 && !s.cp0.exl && !s.cp0.erl

/-- CP0_usable (spec/60_exceptions.md R348). -/
def State.cp0Usable (s : State) : Bool := !s.userMode || s.cp0.cu0

/-- CP1_usable (spec/60_exceptions.md R348). -/
def State.cp1Usable (s : State) : Bool := s.cp0.cu1

/-- ReverseEndian (spec/20_memory.md R62). -/
def State.reverseEndian (s : State) : Bool := s.cp0.re && s.userMode

/-- BigEndianRISCORE (spec/20_memory.md R62). -/
def State.bigEndianCore (s : State) : Bool := s.cfg.bigEndianMem != s.reverseEndian

/-! ## Taking an exception (spec/60_exceptions.md R341 to R355) -/

/-- What an access is for. -/
inductive AccessKind where
  /-- An instruction fetch. -/
  | fetch
  /-- A load. -/
  | load
  /-- A store. -/
  | store
deriving DecidableEq, Repr

/-- An exception, with what its entry records (spec/60_exceptions.md R340, R341). -/
inductive Exc where
  /-- Interrupt (R361). -/
  | interrupt
  /-- TLB Modified (R343). -/
  | tlbModified (va : Word)
  /-- TLB Refill (R343). -/
  | tlbRefill (va : Word) (k : AccessKind)
  /-- TLB Invalid (R343). -/
  | tlbInvalid (va : Word) (k : AccessKind)
  /-- Address Error (R342). -/
  | addressError (va : Word) (k : AccessKind)
  /-- Bus Error on a fetch (R344). -/
  | busErrorFetch
  /-- Bus Error on data (R344). -/
  | busErrorData
  /-- System Call (R346). -/
  | systemCall
  /-- Breakpoint (R346). -/
  | breakpoint
  /-- Reserved Instruction (R347). -/
  | reservedInstruction
  /-- Coprocessor Unusable, of this unit (R348). -/
  | coprocessorUnusable (unit : BitVec 2)
  /-- Integer Overflow (R345). -/
  | integerOverflow
  /-- Trap (R346). -/
  | trap
  /-- Floating point (R349). -/
  | floatingPoint
deriving DecidableEq, Repr

/-- The cause code (spec/60_exceptions.md R341). -/
def Exc.code : Exc → BitVec 5
  | .interrupt => 0
  | .tlbModified _ => 1
  | .tlbRefill _ .store => 3
  | .tlbRefill _ .load => 2
  | .tlbRefill _ .fetch => 2
  | .tlbInvalid _ .store => 3
  | .tlbInvalid _ .load => 2
  | .tlbInvalid _ .fetch => 2
  | .addressError _ .store => 5
  | .addressError _ .load => 4
  | .addressError _ .fetch => 4
  | .busErrorFetch => 6
  | .busErrorData => 7
  | .systemCall => 8
  | .breakpoint => 9
  | .reservedInstruction => 10
  | .coprocessorUnusable _ => 11
  | .integerOverflow => 12
  | .trap => 13
  | .floatingPoint => 15

/-- The address BadVAddr takes (spec/60_exceptions.md R342, R343). -/
def Exc.badVAddr : Exc → Option Word
  | .tlbModified va => some va
  | .tlbRefill va _ => some va
  | .tlbInvalid va _ => some va
  | .addressError va _ => some va
  | _ => none

/-- The page pair EntryHi.VPN2 takes: of the TLB exceptions only (spec/20_memory.md R73). -/
def Exc.badVpn2 : Exc → Option (BitVec 19)
  | .tlbModified va => some (va.extractLsb' 13 19)
  | .tlbRefill va _ => some (va.extractLsb' 13 19)
  | .tlbInvalid va _ => some (va.extractLsb' 13 19)
  | _ => none

/-- The vector's offset (spec/60_exceptions.md R350, R351, R362). -/
def Exc.offset (x : Exc) (exl iv : Bool) : Word :=
  match exl, x with
  | true, _ => 0x180
  | false, .tlbRefill _ _ => 0x000
  | false, .interrupt => if iv then 0x200 else 0x180
  | false, _ => 0x180

/-- Cause after an entry: ExcCode always, CE for Coprocessor Unusable only, BD unless EXL was 1
(spec/60_exceptions.md R350, R354). -/
def Exc.causeAfter (x : Exc) (exl ds : Bool) (cause : Word) : Word :=
  let coded := blend 0x7C (x.code.setWidth 32 <<< 2) cause
  let withUnit := match x with
    | .coprocessorUnusable unit => blend 0x30000000 (unit.setWidth 32 <<< 28) coded
    | _ => coded
  if exl then withUnit else putBit withUnit 31 ds

/-- The address at which execution can resume: the branch, for an instruction in its delay slot
(spec/10_state.md R28). -/
def State.restartAddress (s : State) : Word := if s.inDelaySlot then s.pc - 4 else s.pc

/-- The CP0 registers after an entry (spec/60_exceptions.md R350). -/
def Cp0.enter (c : Cp0) (x : Exc) (restart : Word) (ds : Bool) : Cp0 :=
  { c with
    epc := if c.exl then c.epc else restart
    cause := x.causeAfter c.exl ds c.cause
    badVAddr := x.badVAddr.getD c.badVAddr
    entryHi := match x.badVpn2 with
      | some v => blend 0xFFFFE000 (v.setWidth 32 <<< 13) c.entryHi
      | none => c.entryHi
    status := putBit c.status 1 true }

/-- The vector address (spec/60_exceptions.md R351). -/
def State.vector (s : State) (x : Exc) : Word :=
  (if s.cp0.bev then s.cfg.vecBaseBoot else s.cfg.vecBaseNormal) + x.offset s.cp0.exl s.cp0.iv

/-- raise X: the entry of spec/60_exceptions.md R350. pc is still the address of the victim. -/
def State.raise (s : State) (x : Exc) : State :=
  { s with
    cp0 := s.cp0.enter x s.restartAddress s.inDelaySlot
    pc := s.vector x
    npc := s.vector x + 4
    inDelaySlot := false
    loadPending := none
    llBit := false }

/-- The return from an exception: ERET (spec/46_special.md R266, spec/60_exceptions.md R355). After retire. -/
def State.returnFromException (s : State) : State :=
  let target := if s.cp0.erl then s.cp0.errorEpc else s.cp0.epc
  { s with
    cp0 := { s.cp0 with status := if s.cp0.erl then putBit s.cp0.status 2 false else putBit s.cp0.status 1 false }
    pc := target
    npc := target + 4
    inDelaySlot := false
    llBit := false }

/-! ## Physical memory (spec/20_memory.md R60 to R67) -/

/-- The memory is in canonical form: its addresses rise strictly. -/
def Memory.wf : Memory → Bool
  | [] => true
  | [_] => true
  | (a, _) :: (b, v) :: m => decide (a < b) && Memory.wf ((b, v) :: m)

/-- The byte something has written at an address. -/
def Memory.get? : Memory → Nat → Option Byte
  | [], _ => none
  | (b, v) :: m, a => if a = b then some v else Memory.get? m a

/-- Write one byte. -/
def Memory.set : Memory → Nat → Byte → Memory
  | [], a, x => [(a, x)]
  | (b, v) :: m, a, x =>
    if a < b then (a, x) :: (b, v) :: m
    else if a = b then (a, x) :: m
    else (b, v) :: Memory.set m a x

/-- The byte at a physical address: what was last written there, or the free value of a byte nothing has written
(log 9). -/
def State.byteAt (s : State) (a : Nat) : Byte := (s.mem.get? a).getD (Config.powerOnByte a)

/-- Write one byte of memory. -/
def State.setByte (s : State) (a : Nat) (x : Byte) : State := { s with mem := s.mem.set a x }

/-- The half word at a, in memory's byte order (spec/20_memory.md R66). -/
def State.halfAt (s : State) (a : Nat) : Half :=
  if s.cfg.bigEndianMem then s.byteAt a ++ s.byteAt (a + 1) else s.byteAt (a + 1) ++ s.byteAt a

/-- MemWord(a) (spec/20_memory.md R63). -/
def State.wordAt (s : State) (a : Nat) : Word :=
  if s.cfg.bigEndianMem then s.halfAt a ++ s.halfAt (a + 2) else s.halfAt (a + 2) ++ s.halfAt a

/-- The double word at a (spec/20_memory.md R78). -/
def State.dwordAt (s : State) (a : Nat) : DWord :=
  if s.cfg.bigEndianMem then s.wordAt a ++ s.wordAt (a + 4) else s.wordAt (a + 4) ++ s.wordAt a

/-- Store a half word (spec/20_memory.md R67). -/
def State.setHalf (s : State) (a : Nat) (v : Half) : State :=
  if s.cfg.bigEndianMem then (s.setByte a (v.extractLsb' 8 8)).setByte (a + 1) (v.extractLsb' 0 8)
  else (s.setByte a (v.extractLsb' 0 8)).setByte (a + 1) (v.extractLsb' 8 8)

/-- Store a word (spec/20_memory.md R67). -/
def State.setWord (s : State) (a : Nat) (v : Word) : State :=
  if s.cfg.bigEndianMem then (s.setHalf a (v.extractLsb' 16 16)).setHalf (a + 2) (v.extractLsb' 0 16)
  else (s.setHalf a (v.extractLsb' 0 16)).setHalf (a + 2) (v.extractLsb' 16 16)

/-- Store a double word (spec/20_memory.md R67, R78). -/
def State.setDword (s : State) (a : Nat) (v : DWord) : State :=
  if s.cfg.bigEndianMem then (s.setWord a (v.extractLsb' 32 32)).setWord (a + 4) (v.extractLsb' 0 32)
  else (s.setWord a (v.extractLsb' 0 32)).setWord (a + 4) (v.extractLsb' 32 32)

/-- The lane of a word that the byte at offset k of it occupies, counted from the least significant
(spec/20_memory.md R63). -/
def State.lane (s : State) (k : Nat) : Nat := if s.cfg.bigEndianMem then 3 - k else k

/-- One byte of MemWriteBytes: the byte at offset k takes its lane of w where its lane is chosen. -/
def State.setLane (s : State) (a : Nat) (chosen : Nat → Bool) (w : Word) (k : Nat) : State :=
  if chosen (s.lane k) then s.setByte (a + k) (w.extractLsb' (8 * s.lane k) 8) else s

/-- MemWriteBytes (spec/20_memory.md R67): the chosen lanes of the word at a take those of w. -/
def State.setLanes (s : State) (a : Nat) (chosen : Nat → Bool) (w : Word) : State :=
  (((s.setLane a chosen w 0).setLane a chosen w 1).setLane a chosen w 2).setLane a chosen w 3

/-- The hole rejects an n-byte access at a: the access touches its bytes, and its kind and width are among those the
hole rejects. -/
def holeRejects (h : PhysHole) (a n : Nat) (k : AccessKind) : Bool :=
  (match k with
    | .store => h.stores
    | .load => h.loads
    | .fetch => h.fetches) && decide (n ∈ h.widths) && decide (a < h.base + h.size) && decide (h.base < a + n)

/-- PhysAdmits (spec/20_memory.md R60). -/
def State.admits (s : State) (a n : Nat) (k : AccessKind) : Bool := !s.cfg.physHoles.any (holeRejects · a n k)

/-! ## Accesses (spec/20_memory.md R69 to R76) -/

/-- What a check of an access answers: go on with a value, take an exception, or stop. -/
inductive Acc (α : Type) where
  /-- Go on. -/
  | ok (a : α)
  /-- Take this exception. -/
  | exc (x : Exc)
  /-- Stop. -/
  | stop (f : Fault)
deriving Repr

/-- Two checks, one after the other. -/
def Acc.bind {α β : Type} (x : Acc α) (f : α → Acc β) : Acc β :=
  match x with
  | .ok a => f a
  | .exc e => .exc e
  | .stop e => .stop e

/-- The PFN bits a TLB entry's mask hides, and the VPN2 bits (spec/20_memory.md R72). -/
def TlbEntry.keep (e : TlbEntry) : BitVec 19 := ~~~(e.mask.setWidth 19)

/-- The entry matches this page pair in this address space (spec/20_memory.md R72, spec/47_cp0.md R276). -/
def TlbEntry.hits (e : TlbEntry) (vpn2 : BitVec 19) (asid : BitVec 8) : Bool :=
  decide (e.vpn2 &&& e.keep = vpn2 &&& e.keep) && (e.g || decide (e.asid = asid))

/-- How many bits of the mask are 1: the page is that many address bits larger than 4 KB (spec/10_state.md R42). -/
def maskOnes (m : BitVec 16) : Nat := (List.range 16).countP (fun i => m.getLsbD i)

/-- The page of the pair: by the address bit just above the page offset (spec/20_memory.md R72). -/
def TlbEntry.page (e : TlbEntry) (va : Word) : TlbPage := if va.getLsbD (12 + maskOnes e.mask) then e.odd else e.even

/-- The physical address of va in this page: PFN over the page offset, the low masked PFN bits replaced by those of va,
in PSIZE bits (spec/20_memory.md R72). -/
def TlbEntry.physical (e : TlbEntry) (psize : Nat) (va : Word) : PAddr :=
  let low : PAddr := (e.mask.setWidth 36 <<< 12) ||| 0xFFF
  let frame : PAddr := (e.page va).pfn.setWidth 36 <<< 12
  ((frame &&& ~~~low) ||| (va.setWidth 36 &&& low)) &&& (BitVec.ofNat 36 (2 ^ psize - 1))

/-- EntryHi.ASID (spec/10_state.md R43). -/
def Cp0.asid (c : Cp0) : BitVec 8 := c.entryHi.extractLsb' 0 8

/-- The TLB entries that match a virtual address now (spec/20_memory.md R72). -/
def State.tlbHits (s : State) (va : Word) : List TlbEntry :=
  s.tlb.filter (fun e => e.hits (va.extractLsb' 13 19) s.cp0.asid)

/-- The page's own checks: valid, and writable for a store (spec/20_memory.md R72). -/
def State.throughPage (s : State) (e : TlbEntry) (va : Word) (k : AccessKind) : Acc (PAddr × BitVec 3) :=
  if !(e.page va).v then .exc (.tlbInvalid va k)
  else if k = .store && !(e.page va).d then .exc (.tlbModified va)
  else .ok (e.physical s.cfg.psize va, (e.page va).c)

/-- The TLB lookup of a mapped address (spec/20_memory.md R72). -/
def State.throughTlb (s : State) (va : Word) (k : AccessKind) : Acc (PAddr × BitVec 3) :=
  match s.tlbHits va with
  | [] => .exc (.tlbRefill va k)
  | [e] => s.throughPage e va k
  | _ :: _ :: _ => .stop .tlbMultipleMatch

/-- Translate (spec/20_memory.md R70, R71): the physical address and the cacheability, or the exception. -/
def State.translate (s : State) (va : Word) (k : AccessKind) : Acc (PAddr × BitVec 3) :=
  if va.getLsbD 31 = false then
    if s.cp0.erl then .ok (va.setWidth 36, 2) else s.throughTlb va k
  else if s.userMode then .exc (.addressError va k)
  else match (va.extractLsb' 29 2).toNat with
    | 0 => .ok ((va - 0x80000000#32).setWidth 36, s.cp0.config.extractLsb' 0 3)
    | 1 => .ok ((va - 0xA0000000#32).setWidth 36, 2)
    | _ => s.throughTlb va k

/-- The first checks of an access of n bytes: alignment, then translation (spec/20_memory.md R69, R76). -/
def State.locate (s : State) (va : Word) (n : Nat) (k : AccessKind) : Acc PAddr :=
  if va.toNat % n ≠ 0 then .exc (.addressError va k)
  else (s.translate va k).bind (fun p => .ok p.1)

/-- The last check: the platform accepts the physical access (spec/20_memory.md R80). -/
def State.accept (s : State) (pa : PAddr) (n : Nat) (k : AccessKind) : Acc PAddr :=
  if s.admits pa.toNat n k then .ok pa
  else .exc (if k = .fetch then .busErrorFetch else .busErrorData)

/-! ## LL and SC (spec/20_memory.md R84) -/

/-- A load or store of this processor while a link is active: the link may be lost (R84(b), U11). -/
def State.disturbLink (s : State) : State := { s with llBit := s.llBit && s.freeBit .linkDisturbed }

/-- A byte address lies in the watched block (R84(a), LLBlockSize). -/
def State.inLinkedBlock (s : State) (a : Nat) : Bool :=
  decide (a / s.cfg.llBlockSize = s.llAddr.toNat / s.cfg.llBlockSize)

/-- The cache-coherency attribute of an access, where it translates (spec/20_memory.md R70). -/
def State.attribute (s : State) (va : Word) (k : AccessKind) : BitVec 3 :=
  match s.translate va k with
  | .ok p => p.2
  | .exc _ => 0
  | .stop _ => 0

/-- An SC uses the LL's address: the same virtual address, the same physical address, the same cache-coherency attribute
(R84(c)). -/
def State.sameLink (s : State) (va : Word) (pa : PAddr) : Bool :=
  decide (va = s.llVa) && decide (pa = s.llAddr) && decide (s.attribute va .store = s.llAttr)

/-- The instructions from the LL to this one lie within 2048 bytes (R84(b)). -/
def State.linkExtentOk (s : State) : Bool :=
  let lo := if s.pc < s.llLo then s.pc else s.llLo
  let hi := if s.llHi < s.pc then s.pc else s.llHi
  decide (hi.toNat + 4 ≤ lo.toNat + 2048)

/-! ## FPU registers (spec/10_state.md R50 to R52) -/

/-- FPR[r], its 32 bits. -/
def State.readFpr (s : State) (r : Reg) : Word := s.fpr[r.toNat]

/-- The tag of FPR[r]. -/
def State.tagOf (s : State) (r : Reg) : FprTag := s.fprTag[r.toNat]

/-- The other register of r's pair. -/
def partner (r : Reg) : Reg := r ^^^ 1#5

/-- The tag of one half when the other half of its pair is written alone: a double is broken (R52). -/
def FprTag.broken : FprTag → FprTag
  | .d => .unknown
  | .rawDouble => .unknown
  | t => t

/-- Write the 32 bits and the tag of FPR[r], and nothing else. -/
def State.putFpr (s : State) (r : Reg) (v : Word) (t : FprTag) : State :=
  { s with fpr := s.fpr.set r.toNat v, fprTag := s.fprTag.set r.toNat t }

/-- StoreFPR of a 32-bit format (R52): FPR[r] takes the value, the pair's double is broken. -/
def State.storeFpr32 (s : State) (r : Reg) (v : Word) (t : FprTag) : State :=
  let u := { s with fprTag := s.fprTag.set (partner r).toNat (s.tagOf (partner r)).broken }
  u.putFpr r v t

/-- StoreFPR of a 64-bit format (R52): FPR[r] takes bits 31..0, its partner bits 63..32. -/
def State.storeFpr64 (s : State) (r : Reg) (v : DWord) (t : FprTag) : State :=
  (s.putFpr r (v.extractLsb' 0 32) t).putFpr (partner r) (v.extractLsb' 32 32) t

/-- ValueFPR of a 64-bit format (R52). -/
def State.readFpr64 (s : State) (r : Reg) : DWord := s.readFpr (partner r) ++ s.readFpr r

/-- FPR[r] (or its pair) holds a value that can be read in this format (R51). -/
def State.holds (s : State) (r : Reg) (fmt : Fmt) : Bool :=
  match fmt with
  | .s => s.tagOf r = .s || s.tagOf r = .rawWord
  | .w => s.tagOf r = .w || s.tagOf r = .rawWord
  | .d => decide (s.tagOf r = s.tagOf (partner r)) && (s.tagOf r = .d || s.tagOf r = .rawDouble || s.tagOf r = .rawWord)

/-- ValueFPR (R52), zero-extended for the 32-bit formats. -/
def State.valueFpr (s : State) (r : Reg) (fmt : Fmt) : BitVec 64 :=
  match fmt with
  | .d => s.readFpr64 r
  | _ => (s.readFpr r).setWidth 64

/-- StoreFPR (R52), with this tag. -/
def State.storeFprAs (s : State) (r : Reg) (fmt : Fmt) (v : BitVec 64) (t : FprTag) : State :=
  match fmt with
  | .d => s.storeFpr64 r v t
  | _ => s.storeFpr32 r (v.setWidth 32) t

/-- The tag of a value of this format. -/
def fmtTag : Fmt → FprTag
  | .s => .s
  | .d => .d
  | .w => .w

/-- StoreFPR (R52): the destination takes the tag of the format. -/
def State.storeFpr (s : State) (r : Reg) (fmt : Fmt) (v : BitVec 64) : State := s.storeFprAs r fmt v (fmtTag fmt)

/-- The register number suits the format: a double needs an even one (R50). -/
def fmtSuits (fmt : Fmt) (r : Reg) : Bool :=
  match fmt with
  | .d => !r.getLsbD 0
  | _ => true

end Sys2Proof.Machine
end

