-- ==== Sys2Proof/Machine/Operands.lean ====
section
/-! DEFINITION. The operand forms: immediates, source registers with the load delay, effective addresses, branch and
jump targets, and the bytes an access moves (spec/30_encoding.md R104, R105, spec/20_memory.md R62 to R78). -/
namespace Sys2Proof.Machine

/-- sext_16 (spec/00_scope.md R8). -/
def sext16 (h : Half) : Word := h.signExtend 32
/-- zext_16 (spec/00_scope.md R8). -/
def zext16 (h : Half) : Word := h.setWidth 32
/-- sext_8 (spec/00_scope.md R8). -/
def sext8 (b : Byte) : Word := b.signExtend 32
/-- zext_8 (spec/00_scope.md R8). -/
def zext8 (b : Byte) : Word := b.setWidth 32

/-- A general register read as a source operand: undefined, hence free, when the previous instruction loaded it
(spec/10_state.md R32, U2, log 12). -/
def State.source (s : State) (site : DrawSite) (r : Reg) : Word :=
  if s.loadPending = some r && r ≠ 0 then s.freeWord site else s.readGpr r

/-- GPR[rs] (or GPR[base]) as a source operand. -/
def State.srcRs (s : State) (r : Reg) : Word := s.source .delayRs r

/-- GPR[rt] as a source operand. -/
def State.srcRt (s : State) (r : Reg) : Word := s.source .delayRt r

/-- The effective address (spec/20_memory.md R68). -/
def State.effAddr (s : State) (base : Reg) (off : Half) : Word := sext16 off + s.srcRs base

/-- The target of a branch at cur (spec/30_encoding.md R105). -/
def branchTarget (cur : Word) (off : Half) : Word := cur + 4 + (off ++ 0#2).signExtend 32

/-- The target of J and JAL at cur (spec/30_encoding.md R105). -/
def jumpTarget (cur : Word) (idx : BitVec 26) : Word := (cur + 4).extractLsb' 28 4 ++ idx ++ 0#2

/-- byte, the lane number of an address: vAddr[1:0] xor rep(BigEndianRISCORE, 2) (spec/20_memory.md R63). -/
def State.byteLane (s : State) (va : Word) : Nat :=
  (va.extractLsb' 0 2 ^^^ if s.bigEndianCore then 3#2 else 0#2).toNat

/-- The byte a byte access touches (spec/20_memory.md R65). -/
def State.bytePlace (s : State) (pa : PAddr) : PAddr := if s.reverseEndian then pa ^^^ 3 else pa

/-- The half word a half word access touches (spec/20_memory.md R65). -/
def State.halfPlace (s : State) (pa : PAddr) : PAddr := if s.reverseEndian then pa ^^^ 2 else pa

/-- The aligned word that contains an address. -/
def wordPlace (pa : PAddr) : PAddr := pa &&& ~~~(3#36)

/-- What LWL leaves in rt (spec/40_load_store.md R146). -/
def lwlMerge (byte : Nat) (mem old : Word) : Word :=
  match byte with
  | 0 => mem.extractLsb' 0 8 ++ old.extractLsb' 0 24
  | 1 => mem.extractLsb' 0 16 ++ old.extractLsb' 0 16
  | 2 => mem.extractLsb' 0 24 ++ old.extractLsb' 0 8
  | _ => mem

/-- What LWR leaves in rt (spec/40_load_store.md R147). -/
def lwrMerge (byte : Nat) (mem old : Word) : Word :=
  match byte with
  | 0 => mem
  | 1 => old.extractLsb' 24 8 ++ mem.extractLsb' 8 24
  | 2 => old.extractLsb' 16 16 ++ mem.extractLsb' 16 16
  | _ => old.extractLsb' 8 24 ++ mem.extractLsb' 24 8

/-- MemRead of a byte (spec/20_memory.md R66, spec/40_load_store.md R141). -/
def State.memByte (s : State) (pa : PAddr) : Acc Byte :=
  (s.accept (s.bytePlace pa) 1 .load).bind (fun p => .ok (s.byteAt p.toNat))

/-- MemRead of a half word (spec/20_memory.md R66, spec/40_load_store.md R143). -/
def State.memHalf (s : State) (pa : PAddr) : Acc Half :=
  (s.accept (s.halfPlace pa) 2 .load).bind (fun p => .ok (s.halfAt p.toNat))

/-- MemRead of a word (spec/20_memory.md R66). -/
def State.memWord (s : State) (pa : PAddr) : Acc Word :=
  (s.accept pa 4 .load).bind (fun p => .ok (s.wordAt p.toNat))

/-- MemRead of a double word (spec/20_memory.md R66, R78). -/
def State.memDword (s : State) (pa : PAddr) : Acc DWord :=
  (s.accept pa 8 .load).bind (fun p => .ok (s.dwordAt p.toNat))

/-- MemWrite of a byte (spec/20_memory.md R67, spec/40_load_store.md R149). -/
def State.putByte (s : State) (pa : PAddr) (v : Byte) : Acc State :=
  (s.accept (s.bytePlace pa) 1 .store).bind (fun p => .ok (s.setByte p.toNat v))

/-- MemWrite of a half word (spec/20_memory.md R67, spec/40_load_store.md R150). -/
def State.putHalf (s : State) (pa : PAddr) (v : Half) : Acc State :=
  (s.accept (s.halfPlace pa) 2 .store).bind (fun p => .ok (s.setHalf p.toNat v))

/-- MemWrite of a word (spec/20_memory.md R67). -/
def State.putWord (s : State) (pa : PAddr) (v : Word) : Acc State :=
  (s.accept pa 4 .store).bind (fun p => .ok (s.setWord p.toNat v))

/-- MemWrite of a double word (spec/20_memory.md R67, R78). -/
def State.putDword (s : State) (pa : PAddr) (v : DWord) : Acc State :=
  (s.accept pa 8 .store).bind (fun p => .ok (s.setDword p.toNat v))

/-- MemWriteBytes to the aligned word that contains pa (spec/20_memory.md R67). -/
def State.putLanes (s : State) (pa : PAddr) (chosen : Nat → Bool) (w : Word) : Acc State :=
  (s.accept (wordPlace pa) 4 .store).bind (fun p => .ok (s.setLanes p.toNat chosen w))

/-- The outcome of an instruction whose checks answer x: its next state, the exception taken in s, or the stop. -/
def Acc.outcome (x : Acc State) (s : State) : Result :=
  match x with
  | .ok t => .next t
  | .exc e => .next (s.raise e)
  | .stop e => .fault e

end Sys2Proof.Machine
end

