-- ==== Sys2Proof/Machine/Flags.lean ====
section
/-! DEFINITION. Flag computations: integer overflow (spec/41_alu_immediate.md R160, spec/42_alu_register.md R170, R172),
and the fields of FCSR with the bookkeeping of IEEE conditions (spec/10_state.md R53, R54, spec/49_fpu_arith.md R301). -/
namespace Sys2Proof.Machine

/-- The 33-bit sum of two sign-extended words (spec/42_alu_register.md R170). -/
def sum33 (a b : Word) : BitVec 33 := a.signExtend 33 + b.signExtend 33

/-- The 33-bit difference of two sign-extended words (spec/42_alu_register.md R172). -/
def diff33 (a b : Word) : BitVec 33 := a.signExtend 33 - b.signExtend 33

/-- Bits 32 and 31 differ: the two's complement result overflows. -/
def overflows (t : BitVec 33) : Bool := t.getLsbD 32 != t.getLsbD 31

/-- The conditions of one FPU operation (spec/49_fpu_arith.md R301). -/
structure FpConds where
  /-- E, Unimplemented Operation. -/
  unimplemented : Bool
  /-- V, Invalid Operation. -/
  invalid : Bool
  /-- Z, Division by zero. -/
  divByZero : Bool
  /-- O, Overflow. -/
  overflow : Bool
  /-- U, Underflow. -/
  underflow : Bool
  /-- I, Inexact. -/
  inexact : Bool
deriving DecidableEq, Repr

/-- No condition. -/
def FpConds.none : FpConds := ⟨false, false, false, false, false, false⟩
/-- Invalid Operation alone. -/
def FpConds.justInvalid : FpConds := { FpConds.none with invalid := true }
/-- Division by zero alone. -/
def FpConds.justDivByZero : FpConds := { FpConds.none with divByZero := true }
/-- Inexact, or nothing. -/
def FpConds.ofInexact (b : Bool) : FpConds := { FpConds.none with inexact := b }
/-- Unimplemented Operation alone. -/
def FpConds.justUnimplemented : FpConds := { FpConds.none with unimplemented := true }

/-- The conditions as FCSR.Cause holds them, E V Z O U I from bit 5 down (spec/10_state.md R54). -/
def FpConds.bits (x : FpConds) : BitVec 6 :=
  BitVec.ofBool x.unimplemented ++ BitVec.ofBool x.invalid ++ BitVec.ofBool x.divByZero ++ BitVec.ofBool x.overflow
    ++ BitVec.ofBool x.underflow ++ BitVec.ofBool x.inexact

/-- FCSR.RM (spec/10_state.md R54). -/
def fcsrRm (w : Word) : BitVec 2 := w.extractLsb' 0 2
/-- FCSR.Flags (spec/10_state.md R54). -/
def fcsrFlags (w : Word) : BitVec 5 := w.extractLsb' 2 5
/-- FCSR.Enables (spec/10_state.md R54). -/
def fcsrEnables (w : Word) : BitVec 5 := w.extractLsb' 7 5
/-- FCSR.Cause (spec/10_state.md R54). -/
def fcsrCause (w : Word) : BitVec 6 := w.extractLsb' 12 6

/-- FCSR.Cause <- X (spec/49_fpu_arith.md R301). -/
def fcsrSetCause (w : Word) (x : FpConds) : Word := blend 0x3F000 (x.bits.setWidth 32 <<< 12) w

/-- FCSR.Flags <- FCSR.Flags or X, without E (spec/49_fpu_arith.md R301). -/
def fcsrOrFlags (w : Word) (x : FpConds) : Word := w ||| ((x.bits.setWidth 5).setWidth 32 <<< 2)

/-- Cause holds E or an enabled condition (spec/49_fpu_arith.md R301, spec/48_fpu_move.md R289). -/
def fcsrTraps (w : Word) : Bool :=
  (fcsrCause w).getLsbD 5 || decide ((fcsrCause w).setWidth 5 &&& fcsrEnables w ≠ 0)

/-- The bit of FCSR that holds condition code cc (spec/10_state.md R53). -/
def ccBit (cc : Cc) : Nat := if cc = 0 then 23 else 24 + cc.toNat

/-- FPConditionCode(cc) (spec/10_state.md R53). -/
def State.fpCc (s : State) (cc : Cc) : Bool := s.fcsr.getLsbD (ccBit cc)

/-- SetFPConditionCode(cc, v) (spec/10_state.md R53). -/
def State.setFpCc (s : State) (cc : Cc) (v : Bool) : State := { s with fcsr := putBit s.fcsr (ccBit cc) v }

/-- The bookkeeping of an FPU operation that meets the conditions X (spec/49_fpu_arith.md R301): Cause takes X; on a
trap nothing else changes, otherwise Flags gathers X and the result is written and the instruction completes. -/
def State.fpFinish (s : State) (x : FpConds) (write : State → State) : Result :=
  let c := { s with fcsr := fcsrSetCause s.fcsr x }
  if fcsrTraps c.fcsr then .next (c.raise .floatingPoint)
  else .next (write ({ c with fcsr := fcsrOrFlags c.fcsr x }.retire []))

end Sys2Proof.Machine
end

