-- ==== Sys2Proof/Machine/Alu.lean ====
section
/-! DEFINITION. The ALU instructions: with an immediate (spec/41_alu_immediate.md), with three operands, the counts and
the conditional moves (spec/42_alu_register.md). -/
namespace Sys2Proof.Machine

/-- GPR[rd] <- f (GPR[rs], GPR[rt]). -/
def State.aluReg (s : State) (rs rt rd : Reg) (f : Word → Word → Word) : Result :=
  .next ((s.retire [rd]).writeGpr rd (f (s.srcRs rs) (s.srcRt rt)))

/-- GPR[rt] <- f (GPR[rs]). -/
def State.aluImm (s : State) (rs rt : Reg) (f : Word → Word) : Result :=
  .next ((s.retire [rt]).writeGpr rt (f (s.srcRs rs)))

/-- The result of a 33-bit sum or difference to rd, or Integer Overflow (spec/60_exceptions.md R345). -/
def State.aluTrapping (s : State) (rd : Reg) (t : BitVec 33) : Result :=
  if overflows t then .next (s.raise .integerOverflow)
  else .next ((s.retire [rd]).writeGpr rd (t.setWidth 32))

/-- 0^31 || b. -/
def boolWord (b : Bool) : Word := if b then 1 else 0

/-- How many of bits k - 1, k - 2, ... equal b before one does not. -/
def leadingFrom (b : Bool) (w : Word) : Nat → Nat
  | 0 => 0
  | k + 1 => if w.getLsbD k = b then leadingFrom b w k + 1 else 0

/-- The number of leading bits equal to b, 0 to 32 (spec/42_alu_register.md R180, R181). -/
def countLeading (b : Bool) (w : Word) : Word := BitVec.ofNat 32 (leadingFrom b w 32)

/-- CLO and CLZ: refused where rt and rd differ (spec/30_encoding.md R123, U5). -/
def State.countBits (s : State) (b : Bool) (rs rt rd : Reg) : Result :=
  if rt = rd then .next ((s.retire [rd]).writeGpr rd (countLeading b (s.srcRs rs)))
  else .refused .countRegistersDiffer

/-- GPR[rd] <- GPR[rs] where the condition on GPR[rt] holds; otherwise rd is not written. -/
def State.condMove (s : State) (rs rt rd : Reg) (cond : Word → Bool) : Result :=
  if cond (s.srcRt rt) then .next ((s.retire [rd]).writeGpr rd (s.srcRs rs))
  else .next (s.retire [])

/-! ## Immediate operand -/

/-- ADDI (spec/41_alu_immediate.md R160). -/
def execAddi (rs rt : Reg) (imm : Half) (s : State) : Result :=
  s.aluTrapping rt (sum33 (s.srcRs rs) (sext16 imm))
/-- ADDIU (spec/41_alu_immediate.md R161). -/
def execAddiu (rs rt : Reg) (imm : Half) (s : State) : Result := s.aluImm rs rt (fun a => a + sext16 imm)
/-- SLTI (spec/41_alu_immediate.md R162). -/
def execSlti (rs rt : Reg) (imm : Half) (s : State) : Result := s.aluImm rs rt (fun a => boolWord (a.slt (sext16 imm)))
/-- SLTIU (spec/41_alu_immediate.md R163). -/
def execSltiu (rs rt : Reg) (imm : Half) (s : State) : Result := s.aluImm rs rt (fun a => boolWord (a.ult (sext16 imm)))
/-- ANDI (spec/41_alu_immediate.md R164). -/
def execAndi (rs rt : Reg) (imm : Half) (s : State) : Result := s.aluImm rs rt (fun a => a &&& zext16 imm)
/-- ORI (spec/41_alu_immediate.md R165). -/
def execOri (rs rt : Reg) (imm : Half) (s : State) : Result := s.aluImm rs rt (fun a => a ||| zext16 imm)
/-- XORI (spec/41_alu_immediate.md R166). -/
def execXori (rs rt : Reg) (imm : Half) (s : State) : Result := s.aluImm rs rt (fun a => a ^^^ zext16 imm)
/-- LUI (spec/41_alu_immediate.md R167). -/
def execLui (rt : Reg) (imm : Half) (s : State) : Result := .next ((s.retire [rt]).writeGpr rt (imm ++ 0#16))

/-! ## Three operands -/

/-- ADD (spec/42_alu_register.md R170). -/
def execAdd (rs rt rd : Reg) (s : State) : Result := s.aluTrapping rd (sum33 (s.srcRs rs) (s.srcRt rt))
/-- ADDU (spec/42_alu_register.md R171). -/
def execAddu (rs rt rd : Reg) (s : State) : Result := s.aluReg rs rt rd (fun a b => a + b)
/-- SUB (spec/42_alu_register.md R172). -/
def execSub (rs rt rd : Reg) (s : State) : Result := s.aluTrapping rd (diff33 (s.srcRs rs) (s.srcRt rt))
/-- SUBU (spec/42_alu_register.md R173). -/
def execSubu (rs rt rd : Reg) (s : State) : Result := s.aluReg rs rt rd (fun a b => a - b)
/-- SLT (spec/42_alu_register.md R174). -/
def execSlt (rs rt rd : Reg) (s : State) : Result := s.aluReg rs rt rd (fun a b => boolWord (a.slt b))
/-- SLTU (spec/42_alu_register.md R175). -/
def execSltu (rs rt rd : Reg) (s : State) : Result := s.aluReg rs rt rd (fun a b => boolWord (a.ult b))
/-- AND (spec/42_alu_register.md R176). -/
def execAnd (rs rt rd : Reg) (s : State) : Result := s.aluReg rs rt rd (fun a b => a &&& b)
/-- OR (spec/42_alu_register.md R177). -/
def execOr (rs rt rd : Reg) (s : State) : Result := s.aluReg rs rt rd (fun a b => a ||| b)
/-- XOR (spec/42_alu_register.md R178). -/
def execXor (rs rt rd : Reg) (s : State) : Result := s.aluReg rs rt rd (fun a b => a ^^^ b)
/-- NOR (spec/42_alu_register.md R179). -/
def execNor (rs rt rd : Reg) (s : State) : Result := s.aluReg rs rt rd (fun a b => ~~~(a ||| b))
/-- CLO (spec/42_alu_register.md R180). -/
def execClo (rs rt rd : Reg) (s : State) : Result := s.countBits true rs rt rd
/-- CLZ (spec/42_alu_register.md R181). -/
def execClz (rs rt rd : Reg) (s : State) : Result := s.countBits false rs rt rd
/-- MOVN (spec/42_alu_register.md R182). -/
def execMovn (rs rt rd : Reg) (s : State) : Result := s.condMove rs rt rd (fun b => b ≠ 0)
/-- MOVZ (spec/42_alu_register.md R183). -/
def execMovz (rs rt rd : Reg) (s : State) : Result := s.condMove rs rt rd (fun b => b = 0)

end Sys2Proof.Machine
end

