-- ==== Sys2Proof/Machine/Branch.lean ====
section
/-! DEFINITION. Branches and jumps (spec/45_branch_jump.md), all in the frame of R220. -/
namespace Sys2Proof.Machine

/-- A branch with its condition evaluated: the frame of R220, refused in a delay slot (spec/10_state.md R29, U1). -/
def State.branch (s : State) (likely taken : Bool) (off : Half) : Result :=
  if s.inDelaySlot then .refused .controlInDelaySlot
  else
    let u := s.retire []
    .next (if taken then u.jumpTo (branchTarget s.pc off)
      else if likely then u.nullifySlot s.pc else u.fallThrough)

/-- A linking branch: r31 takes the return address, taken or not; refused when rs is r31 (spec/45_branch_jump.md R221,
U8). -/
def State.branchLink (s : State) (rs : Reg) (likely taken : Bool) (off : Half) : Result :=
  if s.inDelaySlot then .refused .controlInDelaySlot
  else if rs = 31 then .refused .linkRegisterIsSource
  else
    let u := (s.retire [31]).writeGpr 31 (s.pc + 8)
    .next (if taken then u.jumpTo (branchTarget s.pc off)
      else if likely then u.nullifySlot s.pc else u.fallThrough)

/-- A jump that may link (spec/45_branch_jump.md R243 to R246). -/
def State.jump (s : State) (link : Option Reg) (target : Word) : Result :=
  if s.inDelaySlot then .refused .controlInDelaySlot
  else
    .next ((match link with
      | some r => (s.retire [r]).writeGpr r (s.pc + 8)
      | none => s.retire []).jumpTo target)

/-- signed(GPR[rs]) < 0. -/
def State.isNeg (s : State) (rs : Reg) : Bool := (s.srcRs rs).slt 0
/-- signed(GPR[rs]) <= 0. -/
def State.isNonPos (s : State) (rs : Reg) : Bool := (s.srcRs rs).sle 0
/-- GPR[rs] = GPR[rt]. -/
def State.isEq (s : State) (rs rt : Reg) : Bool := decide (s.srcRs rs = s.srcRt rt)

/-- BEQ (spec/45_branch_jump.md R225). -/
def execBeq (rs rt : Reg) (off : Half) (s : State) : Result := s.branch false (s.isEq rs rt) off
/-- BNE (spec/45_branch_jump.md R226). -/
def execBne (rs rt : Reg) (off : Half) (s : State) : Result := s.branch false (!s.isEq rs rt) off
/-- BLEZ (spec/45_branch_jump.md R227). -/
def execBlez (rs : Reg) (off : Half) (s : State) : Result := s.branch false (s.isNonPos rs) off
/-- BGTZ (spec/45_branch_jump.md R228). -/
def execBgtz (rs : Reg) (off : Half) (s : State) : Result := s.branch false (!s.isNonPos rs) off
/-- BLTZ (spec/45_branch_jump.md R229). -/
def execBltz (rs : Reg) (off : Half) (s : State) : Result := s.branch false (s.isNeg rs) off
/-- BGEZ (spec/45_branch_jump.md R230). -/
def execBgez (rs : Reg) (off : Half) (s : State) : Result := s.branch false (!s.isNeg rs) off
/-- BLTZAL (spec/45_branch_jump.md R231). -/
def execBltzal (rs : Reg) (off : Half) (s : State) : Result := s.branchLink rs false (s.isNeg rs) off
/-- BGEZAL (spec/45_branch_jump.md R232). -/
def execBgezal (rs : Reg) (off : Half) (s : State) : Result := s.branchLink rs false (!s.isNeg rs) off
/-- BEQL (spec/45_branch_jump.md R233). -/
def execBeql (rs rt : Reg) (off : Half) (s : State) : Result := s.branch true (s.isEq rs rt) off
/-- BNEL (spec/45_branch_jump.md R234). -/
def execBnel (rs rt : Reg) (off : Half) (s : State) : Result := s.branch true (!s.isEq rs rt) off
/-- BLEZL (spec/45_branch_jump.md R235). -/
def execBlezl (rs : Reg) (off : Half) (s : State) : Result := s.branch true (s.isNonPos rs) off
/-- BGTZL (spec/45_branch_jump.md R236). -/
def execBgtzl (rs : Reg) (off : Half) (s : State) : Result := s.branch true (!s.isNonPos rs) off
/-- BLTZL (spec/45_branch_jump.md R237). -/
def execBltzl (rs : Reg) (off : Half) (s : State) : Result := s.branch true (s.isNeg rs) off
/-- BGEZL (spec/45_branch_jump.md R238). -/
def execBgezl (rs : Reg) (off : Half) (s : State) : Result := s.branch true (!s.isNeg rs) off
/-- BLTZALL (spec/45_branch_jump.md R239). -/
def execBltzall (rs : Reg) (off : Half) (s : State) : Result := s.branchLink rs true (s.isNeg rs) off
/-- BGEZALL (spec/45_branch_jump.md R240). -/
def execBgezall (rs : Reg) (off : Half) (s : State) : Result := s.branchLink rs true (!s.isNeg rs) off
/-- B, the word of BEQ r0, r0, offset (spec/45_branch_jump.md R241). -/
def execB (off : Half) (s : State) : Result := s.branch false (s.isEq 0 0) off
/-- BAL, the word of BGEZAL r0, offset (spec/45_branch_jump.md R242). -/
def execBal (off : Half) (s : State) : Result := s.branchLink 0 false (!s.isNeg 0) off
/-- J (spec/45_branch_jump.md R243). -/
def execJ (idx : BitVec 26) (s : State) : Result := s.jump none (jumpTarget s.pc idx)
/-- JAL (spec/45_branch_jump.md R244). -/
def execJal (idx : BitVec 26) (s : State) : Result := s.jump (some 31) (jumpTarget s.pc idx)
/-- JR: a misaligned target faults at its fetch (spec/45_branch_jump.md R245). -/
def execJr (rs : Reg) (s : State) : Result := s.jump none (s.srcRs rs)
/-- JALR: refused when rs is rd (spec/45_branch_jump.md R246, U8). -/
def execJalr (rs rd : Reg) (s : State) : Result :=
  if rs = rd && !s.inDelaySlot then .refused .linkRegisterIsSource else s.jump (some rd) (s.srcRs rs)

end Sys2Proof.Machine
end

