-- ==== Sys2Proof/Machine/Special.lean ====
section
/-! DEFINITION. SYSCALL, BREAK, SYNC, the conditional traps and ERET (spec/46_special.md). -/
namespace Sys2Proof.Machine

/-- A trap instruction: Trap if the relation holds, otherwise nothing (spec/46_special.md R253). -/
def State.trapIf (s : State) (holds : Bool) : Result :=
  if holds then .next (s.raise .trap) else .next (s.retire [])

/-- A trap that compares two registers. -/
def State.trapReg (s : State) (rs rt : Reg) (rel : Word → Word → Bool) : Result :=
  s.trapIf (rel (s.srcRs rs) (s.srcRt rt))

/-- A trap that compares a register with a sign-extended immediate. -/
def State.trapImm (s : State) (rs : Reg) (imm : Half) (rel : Word → Word → Bool) : Result :=
  s.trapIf (rel (s.srcRs rs) (sext16 imm))

/-- CP0 instructions first test that coprocessor 0 is usable (spec/60_exceptions.md R348). -/
def State.withCp0 (s : State) (k : Result) : Result := if s.cp0Usable then k else .next (s.raise (.coprocessorUnusable 0))

/-- SYSCALL; the code reaches no register (spec/46_special.md R250). -/
def execSyscall (_code : BitVec 20) (s : State) : Result := .next (s.raise .systemCall)
/-- BREAK; the code reaches no register (spec/46_special.md R251). -/
def execBrk (_code : BitVec 20) (s : State) : Result := .next (s.raise .breakpoint)
/-- SYNC: every access is complete in its own step, so nothing is left to order (spec/46_special.md R252). -/
def execSync (_stype : BitVec 5) (s : State) : Result := .next (s.retire [])
/-- TGE (spec/46_special.md R254). -/
def execTge (rs rt : Reg) (_code : BitVec 10) (s : State) : Result := s.trapReg rs rt (fun a b => b.sle a)
/-- TGEU (spec/46_special.md R255). -/
def execTgeu (rs rt : Reg) (_code : BitVec 10) (s : State) : Result := s.trapReg rs rt (fun a b => b.ule a)
/-- TLT (spec/46_special.md R256). -/
def execTlt (rs rt : Reg) (_code : BitVec 10) (s : State) : Result := s.trapReg rs rt (fun a b => a.slt b)
/-- TLTU (spec/46_special.md R257). -/
def execTltu (rs rt : Reg) (_code : BitVec 10) (s : State) : Result := s.trapReg rs rt (fun a b => a.ult b)
/-- TEQ (spec/46_special.md R258). -/
def execTeq (rs rt : Reg) (_code : BitVec 10) (s : State) : Result := s.trapReg rs rt (fun a b => a = b)
/-- TNE (spec/46_special.md R259). -/
def execTne (rs rt : Reg) (_code : BitVec 10) (s : State) : Result := s.trapReg rs rt (fun a b => a ≠ b)
/-- TGEI (spec/46_special.md R260). -/
def execTgei (rs : Reg) (imm : Half) (s : State) : Result := s.trapImm rs imm (fun a b => b.sle a)
/-- TGEIU (spec/46_special.md R261). -/
def execTgeiu (rs : Reg) (imm : Half) (s : State) : Result := s.trapImm rs imm (fun a b => b.ule a)
/-- TLTI (spec/46_special.md R262). -/
def execTlti (rs : Reg) (imm : Half) (s : State) : Result := s.trapImm rs imm (fun a b => a.slt b)
/-- TLTIU (spec/46_special.md R263). -/
def execTltiu (rs : Reg) (imm : Half) (s : State) : Result := s.trapImm rs imm (fun a b => a.ult b)
/-- TEQI (spec/46_special.md R264). -/
def execTeqi (rs : Reg) (imm : Half) (s : State) : Result := s.trapImm rs imm (fun a b => a = b)
/-- TNEI (spec/46_special.md R265). -/
def execTnei (rs : Reg) (imm : Half) (s : State) : Result := s.trapImm rs imm (fun a b => a ≠ b)
/-- ERET (spec/46_special.md R266); refused in a delay slot (spec/10_state.md R29, U1). -/
def execEret (s : State) : Result :=
  if s.inDelaySlot then .refused .controlInDelaySlot else s.withCp0 (.next (s.retire []).returnFromException)

end Sys2Proof.Machine
end

