-- ==== Sys2Proof/Machine/Cp0.lean ====
section
/-! DEFINITION. The CP0 instructions (spec/47_cp0.md): the register moves with the table of R272, the TLB instructions
and WAIT. -/
namespace Sys2Proof.Machine

/-! ## Registers (spec/47_cp0.md R272) -/

/-- n, the width of an index of the TLB: ceil(log2(TLBEntries)) (spec/10_state.md R39). -/
def State.indexBits (s : State) : Nat := if s.tlbEntries ≤ 1 then 0 else Nat.log2 (s.tlbEntries - 1) + 1

/-- The bits n-1..0. -/
def State.indexMask (s : State) : Word := BitVec.ofNat 32 (2 ^ s.indexBits - 1)

/-- The bits of EntryLo: PFN as far as PSIZE goes, C, D, V, G (spec/10_state.md R41). -/
def State.entryLoMask (s : State) : Word := BitVec.ofNat 32 ((2 ^ (s.cfg.psize - 12) - 1) * 64 + 63) &&& 0x3FFFFFFF

/-- The bits of Status that are defined (spec/10_state.md R44). -/
def statusMask : Word := 0xFA78FF1F
/-- The bits of Cause that are defined (spec/10_state.md R46). -/
def causeMask : Word := 0xB0C0FF7C
/-- The bits of Cause that MTC0 writes: IV, WP, IP1, IP0. -/
def causeWriteMask : Word := 0x00C00300
/-- The bits of EntryHi (spec/10_state.md R43). -/
def entryHiMask : Word := 0xFFFFE0FF
/-- The bits of PageMask (spec/10_state.md R42). -/
def pageMaskMask : Word := 0x1FFFE000

/-- Random: a draw from Wired..TLBEntries-1 (spec/10_state.md R40); from all entries where Wired is past them (log 36). -/
def State.randomIndex (s : State) : Nat :=
  let low := (s.cp0.wired &&& s.indexMask).toNat
  let from' := if low < s.tlbEntries then low else 0
  from' + (s.free .random).toNat % (s.tlbEntries - from')

/-- What MFC0 reads; none where the register does not exist (spec/47_cp0.md R272). -/
def State.readCp0 (s : State) (rd : Reg) : Option Word :=
  match rd.toNat with
  | 0 => some (s.cp0.index &&& (0x80000000#32 ||| s.indexMask))
  | 1 => some (BitVec.ofNat 32 s.randomIndex)
  | 2 => some (s.cp0.entryLo0 &&& s.entryLoMask)
  | 3 => some (s.cp0.entryLo1 &&& s.entryLoMask)
  | 5 => some (s.cp0.pageMask &&& pageMaskMask)
  | 6 => some (s.cp0.wired &&& s.indexMask)
  | 8 => some s.cp0.badVAddr
  | 9 => if s.cfg.hasTimer then some s.cp0.count else none
  | 10 => some (s.cp0.entryHi &&& entryHiMask)
  | 11 => if s.cfg.hasTimer then some s.cp0.compare else none
  | 12 => some (s.cp0.status &&& statusMask)
  | 13 => some (s.cp0.cause &&& causeMask)
  | 14 => some s.cp0.epc
  | 15 => some (s.cfg.pridLow16.setWidth 32)
  | 16 => some s.cp0.config
  | 30 => some s.cp0.errorEpc
  | _ => none

/-- What MTC0 writes; none where the register does not exist (spec/47_cp0.md R272). -/
def State.writeCp0 (s : State) (rd : Reg) (v : Word) : Option Cp0 :=
  match rd.toNat with
  | 0 => some { s.cp0 with index := blend s.indexMask v s.cp0.index }
  | 1 => some s.cp0
  | 2 => some { s.cp0 with entryLo0 := v &&& s.entryLoMask }
  | 3 => some { s.cp0 with entryLo1 := v &&& s.entryLoMask }
  | 5 => some { s.cp0 with pageMask := v &&& pageMaskMask }
  | 6 => some { s.cp0 with wired := v &&& s.indexMask }
  | 8 => some s.cp0
  | 9 => if s.cfg.hasTimer then some { s.cp0 with count := v } else none
  | 10 => some { s.cp0 with entryHi := v &&& entryHiMask }
  | 11 => if s.cfg.hasTimer then some { s.cp0 with compare := v, timerRequest := false } else none
  | 12 => some { s.cp0 with status := v &&& statusMask }
  | 13 => some { s.cp0 with cause := blend causeWriteMask v s.cp0.cause }
  | 14 => some { s.cp0 with epc := v }
  | 15 => some s.cp0
  | 16 => some { s.cp0 with config := blend 7 v s.cp0.config }
  | 30 => some { s.cp0 with errorEpc := v }
  | _ => none

/-- MFC0: the value arrives with a load delay; free where the register does not exist (spec/47_cp0.md R270, U9). -/
def execMfc0 (rt rd : Reg) (s : State) : Result :=
  s.withCp0 (.next { (s.retire [rt]).writeGpr rt ((s.readCp0 rd).getD (s.freeWord .cp0Absent)) with
    loadPending := some rt
    cp0 := if rd = 1 then { s.cp0 with random := BitVec.ofNat 32 s.randomIndex } else s.cp0 })

/-- MTC0: acts in its own step; refused where the register does not exist, or where Status would take KSU = 01 or 11
(spec/47_cp0.md R271, U9). -/
def execMtc0 (rt rd : Reg) (s : State) : Result :=
  s.withCp0 (
    if rd = 12 && (s.srcRt rt).getLsbD 3 then .refused .statusModeReserved
    else match s.writeCp0 rd (s.srcRt rt) with
      | some c => .next { s.retire [] with cp0 := c }
      | none => .refused .cp0RegisterAbsent)

/-! ## The TLB (spec/47_cp0.md R273 to R276) -/

/-- The page an EntryLo register describes (spec/10_state.md R41). -/
def pageOfLo (w : Word) : TlbPage := ⟨w.extractLsb' 6 24, w.extractLsb' 3 3, w.getLsbD 2, w.getLsbD 1⟩

/-- EntryLo of a page (spec/47_cp0.md R273). -/
def loOfPage (p : TlbPage) (g : Bool) : Word :=
  0#2 ++ p.pfn ++ p.c ++ BitVec.ofBool p.d ++ BitVec.ofBool p.v ++ BitVec.ofBool g

/-- The entry that EntryHi, EntryLo0, EntryLo1 and PageMask describe (spec/47_cp0.md R274). -/
def State.entryFromRegs (s : State) : TlbEntry where
  mask := s.cp0.pageMask.extractLsb' 13 16
  vpn2 := s.cp0.entryHi.extractLsb' 13 19
  g := s.cp0.entryLo0.getLsbD 0 && s.cp0.entryLo1.getLsbD 0
  asid := s.cp0.asid
  even := pageOfLo (s.cp0.entryLo0 &&& s.entryLoMask)
  odd := pageOfLo (s.cp0.entryLo1 &&& s.entryLoMask)

/-- The bits of a field under the entry's mask read back as anything (spec/47_cp0.md R273, U30). -/
def underMask (n : Nat) (mask : BitVec 16) (v draw : BitVec n) : BitVec n :=
  (v &&& ~~~(mask.setWidth n)) ||| (draw &&& mask.setWidth n)

/-- A page as TLBR reads it back. -/
def State.pageRead (s : State) (mask : BitVec 16) (site : DrawSite) (p : TlbPage) : TlbPage :=
  { p with pfn := underMask 24 mask p.pfn ((s.free site).setWidth 24) }

/-- The registers after TLBR of an entry (spec/47_cp0.md R273). -/
def State.regsFromEntry (s : State) (e : TlbEntry) : Cp0 :=
  { s.cp0 with
    pageMask := e.mask.setWidth 32 <<< 13
    entryHi := underMask 19 e.mask e.vpn2 ((s.free .tlbrVpn2).setWidth 19) ++ 0#5 ++ e.asid
    entryLo0 := loOfPage (s.pageRead e.mask .tlbrEven e.even) e.g &&& s.entryLoMask
    entryLo1 := loOfPage (s.pageRead e.mask .tlbrOdd e.odd) e.g &&& s.entryLoMask }

/-- Index.Index (spec/10_state.md R39). -/
def State.indexField (s : State) : Nat := (s.cp0.index &&& s.indexMask).toNat

/-- The write of one entry by TLBWI and TLBWR (spec/47_cp0.md R274, R275). -/
def State.writeEntry (s : State) (i : Nat) : Result :=
  if s.cp0.pageMask.extractLsb' 13 16 ∈ s.cfg.pageMaskLegal then
    .next { s.retire [] with tlb := s.tlb.set i s.entryFromRegs }
  else .fault .pageMaskUnsupported

/-- The numbers of the entries that match, counting from i (spec/47_cp0.md R276). -/
def probeFrom (vpn2 : BitVec 19) (asid : BitVec 8) : List TlbEntry → Nat → List Nat
  | [], _ => []
  | e :: l, i => if e.hits vpn2 asid then i :: probeFrom vpn2 asid l (i + 1) else probeFrom vpn2 asid l (i + 1)

/-- Index after TLBP: the entry that matches, P alone when none does (spec/47_cp0.md R276). With several matches the
result is undefined (spec/70_reset_and_hazards.md R384, U12), hence a free value in the bits Index has: DESIGN CHOICE
(log 21). -/
def State.probe (s : State) : Word :=
  match probeFrom (s.cp0.entryHi.extractLsb' 13 19) s.cp0.asid s.tlb 0 with
  | [] => 0x80000000
  | [i] => BitVec.ofNat 32 i
  | _ :: _ :: _ => s.freeWord .probe &&& (0x80000000#32 ||| s.indexMask)

/-- TLBR (spec/47_cp0.md R273). -/
def execTlbr (s : State) : Result :=
  s.withCp0 (match s.tlb[s.indexField]? with
    | some e => .next { s.retire [] with cp0 := s.regsFromEntry e }
    | none => .fault .tlbIndexOutOfRange)
/-- TLBWI (spec/47_cp0.md R274). -/
def execTlbwi (s : State) : Result :=
  s.withCp0 (if s.indexField < s.tlbEntries then s.writeEntry s.indexField else .fault .tlbIndexOutOfRange)
/-- TLBWR: the entry is drawn, and Random shows the draw (spec/47_cp0.md R275). -/
def execTlbwr (s : State) : Result :=
  s.withCp0 (State.writeEntry { s with cp0 := { s.cp0 with random := BitVec.ofNat 32 s.randomIndex } } s.randomIndex)
/-- TLBP (spec/47_cp0.md R276). -/
def execTlbp (s : State) : Result := s.withCp0 (.next { s.retire [] with cp0 := { s.cp0 with index := s.probe } })
/-- WAIT; the code is ignored (spec/47_cp0.md R277); refused in a delay slot (spec/10_state.md R29, U1). -/
def execWait (_code : BitVec 19) (s : State) : Result :=
  if s.inDelaySlot then .refused .controlInDelaySlot else s.withCp0 (.next { s.retire [] with waiting := true })

end Sys2Proof.Machine
end

