-- ==== Sys2Proof/Machine/Float.lean ====
section
/-! DEFINITION. The arithmetic of the FPU (spec/49_fpu_arith.md R300, R303): operands are read as exact numbers, the
result is computed exactly on integers, and rounded once. Rounding modes are FCSR.RM: 0 to nearest even, 1 toward zero,
2 toward plus infinity, 3 toward minus infinity (spec/10_state.md R54). -/
namespace Sys2Proof.Machine

/-- The widths of a binary format (spec/49_fpu_arith.md R300). -/
structure FpFormat where
  /-- Exponent bits. -/
  expBits : Nat
  /-- Fraction bits. -/
  fracBits : Nat
deriving DecidableEq, Repr

/-- S: 1, 8 and 23 bits. -/
def FpFormat.single : FpFormat := ⟨8, 23⟩
/-- D: 1, 11 and 52 bits. -/
def FpFormat.double : FpFormat := ⟨11, 52⟩

/-- The format of the fmt field; W is no binary floating-point format and stands for S here. -/
def fpFormat (fmt : Fmt) : FpFormat :=
  match fmt with
  | .d => .double
  | _ => .single

/-- The exponent bias. -/
def FpFormat.bias (f : FpFormat) : Nat := 2 ^ (f.expBits - 1) - 1

/-- The largest biased exponent: infinities and NaNs. -/
def FpFormat.maxExp (f : FpFormat) : Nat := 2 ^ f.expBits - 1

/-- An operand as a number. -/
inductive FpVal where
  /-- Not a number. -/
  | nan (signalling : Bool)
  /-- An infinity. -/
  | inf (neg : Bool)
  /-- The number m * 2 ^ e, negated if neg; a zero keeps its sign. -/
  | fin (neg : Bool) (m : Nat) (e : Int)
deriving DecidableEq, Repr

/-- What a pattern of bits stands for (spec/49_fpu_arith.md R300, (a) for NaNs). -/
def fpUnpack (f : FpFormat) (nan2008 : Bool) (v : BitVec 64) : FpVal :=
  let n := v.toNat
  let neg := n / 2 ^ (f.expBits + f.fracBits) % 2 = 1
  let ex := n / 2 ^ f.fracBits % 2 ^ f.expBits
  let frac := n % 2 ^ f.fracBits
  if ex = f.maxExp then
    if frac = 0 then .inf neg
    else .nan (decide (frac / 2 ^ (f.fracBits - 1) = 1) != nan2008)
  else if ex = 0 then .fin neg frac (1 - (f.bias : Int) - f.fracBits)
  else .fin neg (2 ^ f.fracBits + frac) ((ex : Int) - f.bias - f.fracBits)

/-- The pattern with these fields. -/
def fpPack (f : FpFormat) (neg : Bool) (ex frac : Nat) : BitVec 64 :=
  BitVec.ofNat 64 ((if neg then 2 ^ (f.expBits + f.fracBits) else 0) + ex * 2 ^ f.fracBits + frac)

/-- An infinity. -/
def fpInf (f : FpFormat) (neg : Bool) : BitVec 64 := fpPack f neg f.maxExp 0

/-- A zero. -/
def fpZero (f : FpFormat) (neg : Bool) : BitVec 64 := fpPack f neg 0 0

/-- The largest finite number. -/
def fpMax (f : FpFormat) (neg : Bool) : BitVec 64 := fpPack f neg (f.maxExp - 1) (2 ^ f.fracBits - 1)

/-- A quiet NaN of the format, its sign and payload drawn (spec/49_fpu_arith.md R300(b), U22). -/
def fpQuietNan (f : FpFormat) (nan2008 : Bool) (draw : BitVec 64) : BitVec 64 :=
  let payload := draw.toNat % 2 ^ (f.fracBits - 1)
  let frac := if nan2008 then 2 ^ (f.fracBits - 1) + payload else if payload = 0 then 1 else payload
  fpPack f (draw.getLsbD 63) f.maxExp frac

/-- The pattern is a subnormal number. -/
def fpSubnormal (f : FpFormat) (v : BitVec 64) : Bool :=
  decide (v.toNat / 2 ^ f.fracBits % 2 ^ f.expBits = 0) && decide (v.toNat % 2 ^ f.fracBits ≠ 0)

/-- Whether a rounded-down magnitude goes up by one: from the mode, the sign, its last bit, and twice the dropped part
against one unit. -/
def roundsUp (rm : BitVec 2) (neg odd : Bool) (twice unit : Nat) : Bool :=
  match rm.toNat with
  | 0 => decide (unit < twice) || (decide (twice = unit) && odd)
  | 1 => false
  | 2 => !neg && decide (0 < twice)
  | _ => neg && decide (0 < twice)

/-- m / 2 ^ d rounded to an integer in this mode. -/
def roundShift (rm : BitVec 2) (neg : Bool) (m d : Nat) : Nat :=
  let q := m / 2 ^ d
  if roundsUp rm neg (decide (q % 2 = 1)) (2 * (m % 2 ^ d)) (2 ^ d) then q + 1 else q

/-- The result of an operation: its conditions and the default value of R303. -/
structure FpOut where
  /-- The conditions. -/
  conds : FpConds
  /-- The value written when no trap is taken. -/
  value : BitVec 64
deriving DecidableEq, Repr

/-- The result of an overflow (spec/49_fpu_arith.md R303). -/
def fpOverflow (f : FpFormat) (rm : BitVec 2) (neg : Bool) : FpOut :=
  { conds := { FpConds.none with overflow := true, inexact := true }
    value := match rm.toNat with
      | 0 => fpInf f neg
      | 1 => fpMax f neg
      | 2 => if neg then fpMax f true else fpInf f false
      | _ => if neg then fpInf f true else fpMax f false }

/-- The nonzero number m * 2 ^ e rounded to the format (spec/49_fpu_arith.md R300, R303). Tininess is judged after
rounding with an unbounded exponent; Underflow needs a tiny result that is inexact, or the enable (R300(d), log 40). -/
def fpRound (f : FpFormat) (rm : BitVec 2) (underflowEnabled neg : Bool) (m : Nat) (e : Int) : FpOut :=
  let top : Int := e + Nat.log2 m
  let emin : Int := 1 - (f.bias : Int)
  let wide : Int := top - f.fracBits
  let quantum : Int := max wide (emin - f.fracBits)
  let up := (e - quantum).toNat
  let down := (quantum - e).toNat
  let mant := roundShift rm neg (m * 2 ^ up) down
  let inexact := decide (m * 2 ^ up % 2 ^ down ≠ 0)
  let unbounded := roundShift rm neg (m * 2 ^ (e - wide).toNat) (wide - e).toNat
  let tiny := decide (top + (if unbounded = 2 ^ (f.fracBits + 1) then 1 else 0) < emin)
  let carried := decide (mant = 2 ^ (f.fracBits + 1))
  let mant' := if carried then 2 ^ f.fracBits else mant
  let quantum' := if carried then quantum + 1 else quantum
  if (f.bias : Int) < quantum' + f.fracBits then fpOverflow f rm neg
  else
    { conds := { FpConds.none with underflow := tiny && (inexact || underflowEnabled), inexact := inexact }
      value :=
        if mant' < 2 ^ f.fracBits then fpPack f neg 0 mant'
        else fpPack f neg (quantum' + f.fracBits + f.bias).toNat (mant' - 2 ^ f.fracBits) }

/-- What an operation needs besides its operands: the mode, the enable of Underflow, the NaN convention and the quiet
NaN drawn for this step. -/
structure FpEnv where
  /-- The rounding mode. -/
  rm : BitVec 2
  /-- FCSR's enable of Underflow. -/
  underflowEnabled : Bool
  /-- NAN2008. -/
  nan2008 : Bool
  /-- The draw of the result's quiet NaN. -/
  nanDraw : BitVec 64
deriving DecidableEq, Repr

/-- The quiet NaN of a result, with these conditions. -/
def fpNanOut (env : FpEnv) (f : FpFormat) (conds : FpConds) : FpOut := ⟨conds, fpQuietNan f env.nan2008 env.nanDraw⟩

/-- An exact result. -/
def fpExact (value : BitVec 64) : FpOut := ⟨FpConds.none, value⟩

/-- A result that may be zero, with the sign a zero takes. -/
def fpRoundOrZero (env : FpEnv) (f : FpFormat) (zeroNeg neg : Bool) (m : Nat) (e : Int) : FpOut :=
  if m = 0 then fpExact (fpZero f zeroNeg) else fpRound f env.rm env.underflowEnabled neg m e

/-- The sum (spec/49_fpu_arith.md R307). -/
def fpAdd (env : FpEnv) (f : FpFormat) (a b : FpVal) : FpOut :=
  match a, b with
  | .nan sa, .nan sb => fpNanOut env f { FpConds.none with invalid := sa || sb }
  | .nan sa, _ => fpNanOut env f { FpConds.none with invalid := sa }
  | _, .nan sb => fpNanOut env f { FpConds.none with invalid := sb }
  | .inf na, .inf nb => if na = nb then fpExact (fpInf f na) else fpNanOut env f .justInvalid
  | .inf na, .fin _ _ _ => fpExact (fpInf f na)
  | .fin _ _ _, .inf nb => fpExact (fpInf f nb)
  | .fin na ma ea, .fin nb mb eb =>
    let e := min ea eb
    let x : Int := (ma * 2 ^ (ea - e).toNat : Nat)
    let y : Int := (mb * 2 ^ (eb - e).toNat : Nat)
    let sum := (if na then -x else x) + (if nb then -y else y)
    let zeroNeg := if na = nb then na else decide (env.rm = 3)
    fpRoundOrZero env f zeroNeg (decide (sum < 0)) sum.natAbs e

/-- The operand with its sign inverted, as a number. -/
def FpVal.negate : FpVal → FpVal
  | .nan s => .nan s
  | .inf n => .inf (!n)
  | .fin n m e => .fin (!n) m e

/-- The difference: the sum with the sign of the second operand inverted (spec/49_fpu_arith.md R308). -/
def fpSub (env : FpEnv) (f : FpFormat) (a b : FpVal) : FpOut := fpAdd env f a b.negate

/-- The product (spec/49_fpu_arith.md R309). -/
def fpMul (env : FpEnv) (f : FpFormat) (a b : FpVal) : FpOut :=
  match a, b with
  | .nan sa, .nan sb => fpNanOut env f { FpConds.none with invalid := sa || sb }
  | .nan sa, _ => fpNanOut env f { FpConds.none with invalid := sa }
  | _, .nan sb => fpNanOut env f { FpConds.none with invalid := sb }
  | .inf na, .inf nb => fpExact (fpInf f (na != nb))
  | .inf na, .fin nb mb _ => if mb = 0 then fpNanOut env f .justInvalid else fpExact (fpInf f (na != nb))
  | .fin na ma _, .inf nb => if ma = 0 then fpNanOut env f .justInvalid else fpExact (fpInf f (na != nb))
  | .fin na ma ea, .fin nb mb eb => fpRoundOrZero env f (na != nb) (na != nb) (ma * mb) (ea + eb)

/-- The quotient (spec/49_fpu_arith.md R310). The division keeps more bits than the format has, and a last bit that says
whether anything was left over. -/
def fpDiv (env : FpEnv) (f : FpFormat) (a b : FpVal) : FpOut :=
  match a, b with
  | .nan sa, .nan sb => fpNanOut env f { FpConds.none with invalid := sa || sb }
  | .nan sa, _ => fpNanOut env f { FpConds.none with invalid := sa }
  | _, .nan sb => fpNanOut env f { FpConds.none with invalid := sb }
  | .inf _, .inf _ => fpNanOut env f .justInvalid
  | .inf na, .fin nb _ _ => fpExact (fpInf f (na != nb))
  | .fin na _ _, .inf nb => fpExact (fpZero f (na != nb))
  | .fin na ma ea, .fin nb mb eb =>
    if mb = 0 then
      if ma = 0 then fpNanOut env f .justInvalid else ⟨.justDivByZero, fpInf f (na != nb)⟩
    else
      let k := f.fracBits + 4 + Nat.log2 mb
      let q := ma * 2 ^ k / mb
      let rest := if ma * 2 ^ k % mb = 0 then 0 else 1
      fpRoundOrZero env f (na != nb) (na != nb) (2 * q + rest) (ea - eb - k - 1)

/-- The integer square root, bit by bit from bit k - 1 down. -/
def isqrtFrom : Nat → Nat → Nat → Nat
  | 0, _, root => root
  | k + 1, n, root => isqrtFrom k n (if (root + 2 ^ k) * (root + 2 ^ k) ≤ n then root + 2 ^ k else root)

/-- The square root (spec/49_fpu_arith.md R311). -/
def fpSqrt (env : FpEnv) (f : FpFormat) (a : FpVal) : FpOut :=
  match a with
  | .nan s => fpNanOut env f { FpConds.none with invalid := s }
  | .inf false => fpExact (fpInf f false)
  | .inf true => fpNanOut env f .justInvalid
  | .fin n m e =>
    if m = 0 then fpExact (fpZero f n)
    else if n then fpNanOut env f .justInvalid
    else
      let s := 2 * (f.fracBits + 4) + (e % 2).toNat
      let scaled := m * 2 ^ s
      let root := isqrtFrom (Nat.log2 scaled / 2 + 1) scaled 0
      let rest := if root * root = scaled then 0 else 1
      fpRound f env.rm env.underflowEnabled false (2 * root + rest) ((e - s) / 2 - 1)

/-- ABS and NEG give the sign and keep the rest; a NaN is Invalid Operation when it signals, or always where the
parameter says so (spec/49_fpu_arith.md R305, R306). -/
def fpSignOp (env : FpEnv) (f : FpFormat) (quietIsInvalid : Bool) (sign : Bool → Bool) (v : BitVec 64) : FpOut :=
  match fpUnpack f env.nan2008 v with
  | .nan s => fpNanOut env f { FpConds.none with invalid := s || quietIsInvalid }
  | _ =>
    let half := 2 ^ (f.expBits + f.fracBits)
    fpExact (fpPack f (sign (decide (v.toNat / half % 2 = 1))) 0 (v.toNat % half))

/-- How two operands stand to each other (spec/49_fpu_arith.md R312). -/
structure FpOrder where
  /-- a < b. -/
  less : Bool
  /-- a = b. -/
  equal : Bool
  /-- A NaN is among them. -/
  unordered : Bool
deriving DecidableEq, Repr

/-- The order of two operands; zeros are equal whatever their sign (spec/49_fpu_arith.md R312). -/
def fpOrder (a b : FpVal) : FpOrder :=
  match a, b with
  | .nan _, _ => ⟨false, false, true⟩
  | _, .nan _ => ⟨false, false, true⟩
  | .inf na, .inf nb => ⟨na && !nb, na = nb, false⟩
  | .inf na, .fin _ _ _ => ⟨na, false, false⟩
  | .fin _ _ _, .inf nb => ⟨!nb, false, false⟩
  | .fin na ma ea, .fin nb mb eb =>
    let e := min ea eb
    let x : Int := (ma * 2 ^ (ea - e).toNat : Nat)
    let y : Int := (mb * 2 ^ (eb - e).toNat : Nat)
    let x' := if na then -x else x
    let y' := if nb then -y else y
    ⟨decide (x' < y'), decide (x' = y'), false⟩

/-- The operand is a NaN. -/
def FpVal.isNan : FpVal → Bool
  | .nan _ => true
  | _ => false

/-- The operand is a signalling NaN. -/
def FpVal.isSignalling : FpVal → Bool
  | .nan s => s
  | _ => false

/-- The condition of a compare and whether it is Invalid Operation (spec/49_fpu_arith.md R312). -/
def fpCompare (cond : BitVec 4) (a b : FpVal) : Bool × FpConds :=
  let o := fpOrder a b
  ((cond.getLsbD 2 && o.less) || (cond.getLsbD 1 && o.equal) || (cond.getLsbD 0 && o.unordered),
   { FpConds.none with
     invalid := a.isSignalling || b.isSignalling || (cond.getLsbD 3 && (a.isNan || b.isNan)) })

/-- Conversion between the floating-point formats (spec/49_fpu_arith.md R316, R317). -/
def fpConvert (env : FpEnv) (f : FpFormat) (a : FpVal) : FpOut :=
  match a with
  | .nan s => fpNanOut env f { FpConds.none with invalid := s }
  | .inf n => fpExact (fpInf f n)
  | .fin n m e => fpRoundOrZero env f n n m e

/-- A 32-bit integer as a number (spec/49_fpu_arith.md R316, R317). -/
def fpOfInt (v : Word) : FpVal := .fin (decide (v.toInt < 0)) v.toInt.natAbs 0

/-- Conversion to W in a rounding mode (spec/49_fpu_arith.md R322). -/
def fpToWord (rm : BitVec 2) (a : FpVal) : FpOut :=
  match a with
  | .nan _ => ⟨.justInvalid, 0x7FFFFFFF⟩
  | .inf _ => ⟨.justInvalid, 0x7FFFFFFF⟩
  | .fin neg m e =>
    let mag := roundShift rm neg (m * 2 ^ e.toNat) (-e).toNat
    let n : Int := if neg then -(mag : Int) else mag
    if n < -(2 ^ 31) ∨ 2 ^ 31 - 1 < n then ⟨.justInvalid, 0x7FFFFFFF⟩
    else ⟨.ofInexact (decide (m * 2 ^ e.toNat % 2 ^ (-e).toNat ≠ 0)), (BitVec.ofInt 32 n).setWidth 64⟩

end Sys2Proof.Machine
end

