-- ==== Sys2Proof/Machine/FpuMove.lean ====
section
/-! DEFINITION. The FPU's data transfers and formatted moves (spec/48_fpu_move.md), and how an FPU operation reads its
operands (spec/10_state.md R51, spec/49_fpu_arith.md R302, R304). -/
namespace Sys2Proof.Machine

/-- FPU instructions first test that coprocessor 1 is usable (spec/48_fpu_move.md R280). -/
def State.withCp1 (s : State) (k : Result) : Result := if s.cp1Usable then k else .next (s.raise (.coprocessorUnusable 1))

/-- A register number that does not suit the format is refused (spec/10_state.md R50, U21). -/
def State.withEven (_s : State) (fmt : Fmt) (regs : List Reg) (k : Result) : Result :=
  if regs.all (fmtSuits fmt) then k else .refused .oddDoubleRegister

/-- A free value of this format. -/
def State.freeFpr (s : State) (site : DrawSite) (fmt : Fmt) : BitVec 64 :=
  match fmt with
  | .d => s.free site
  | _ => ((s.free site).setWidth 32).setWidth 64

/-- An operand: free where the register holds no value of the format (spec/10_state.md R51, U20, log 25). -/
def State.fpOperand (s : State) (site : DrawSite) (r : Reg) (fmt : Fmt) : BitVec 64 :=
  if s.holds r fmt then s.valueFpr r fmt else s.freeFpr site fmt

/-- A register read in a format it does not hold has no known value afterwards (spec/10_state.md R51, U20). -/
def State.fpSpoil (s : State) (site : DrawSite) (r : Reg) (fmt : Fmt) : State :=
  if s.holds r fmt then s else s.storeFprAs r fmt (s.freeFpr site fmt) .unknown

/-- FPUnimplemented lists this instruction on these operand values (spec/49_fpu_arith.md R302, log 28). -/
def State.fpListed (s : State) (i : Instr) (a b c : BitVec 64) : Bool := s.cfg.fpUnimplemented.contains ⟨i, a, b, c⟩

/-! ## Loads and stores -/

/-- An FPU load: the checks, then the register (spec/48_fpu_move.md R281 to R283). -/
def State.loadFpr (s : State) (base : Reg) (off : Half) (n : Nat) (read : State → PAddr → Acc State) : Result :=
  ((s.locate (s.effAddr base off) n .load).bind (read (s.retire []).disturbLink)).outcome s

/-- An FPU store: the checks, then memory (spec/48_fpu_move.md R284, R285). -/
def State.storeFpu (s : State) (base : Reg) (off : Half) (n : Nat) (write : State → PAddr → Acc State) : Result :=
  ((s.locate (s.effAddr base off) n .store).bind (write (s.retire []).disturbLink)).outcome s

/-- LWC1 (spec/48_fpu_move.md R282). -/
def execLwc1 (base ft : Reg) (off : Half) (s : State) : Result :=
  s.withCp1 (s.loadFpr base off 4 (fun u pa => (u.memWord pa).bind (fun v => .ok (u.storeFpr32 ft v .rawWord))))
/-- LDC1 (spec/48_fpu_move.md R283). -/
def execLdc1 (base ft : Reg) (off : Half) (s : State) : Result :=
  s.withCp1 (s.withEven .d [ft]
    (s.loadFpr base off 8 (fun u pa => (u.memDword pa).bind (fun v => .ok (u.storeFpr64 ft v .rawDouble)))))
/-- SWC1 (spec/48_fpu_move.md R284). -/
def execSwc1 (base ft : Reg) (off : Half) (s : State) : Result :=
  s.withCp1 (s.storeFpu base off 4 (fun u pa => u.putWord pa (s.readFpr ft)))
/-- SDC1 (spec/48_fpu_move.md R285). -/
def execSdc1 (base ft : Reg) (off : Half) (s : State) : Result :=
  s.withCp1 (s.withEven .d [ft] (s.storeFpu base off 8 (fun u pa => u.putDword pa (s.readFpr64 ft))))

/-! ## Moves between the CPU and the FPU -/

/-- MFC1 (spec/48_fpu_move.md R286). -/
def execMfc1 (rt fs : Reg) (s : State) : Result := s.withCp1 (.next ((s.retire [rt]).writeGpr rt (s.readFpr fs)))
/-- MTC1 (spec/48_fpu_move.md R287). -/
def execMtc1 (rt fs : Reg) (s : State) : Result :=
  s.withCp1 (.next ((s.retire []).storeFpr32 fs (s.srcRt rt) .rawWord))

/-- What CFC1 reads; none where the control register does not exist (spec/48_fpu_move.md R288; FCSR bits 22..18 read
0, spec/10_state.md R54). -/
def State.readFcr (s : State) (fs : Reg) : Option Word :=
  match fs.toNat with
  | 0 => some s.cfg.firValue
  | 25 => some (0#24 ++ s.fcsr.extractLsb' 25 7 ++ s.fcsr.extractLsb' 23 1)
  | 26 => some (0#14 ++ fcsrCause s.fcsr ++ 0#5 ++ fcsrFlags s.fcsr ++ 0#2)
  | 28 => some (0#20 ++ fcsrEnables s.fcsr ++ 0#4 ++ s.fcsr.extractLsb' 24 1 ++ fcsrRm s.fcsr)
  | 31 => some (s.fcsr &&& 0xFF83FFFF)
  | _ => none

/-- FCSR after CTC1; none in the UNPREDICTABLE cases (spec/48_fpu_move.md R289, U16). -/
def State.writeFcr (s : State) (fs : Reg) (v : Word) : Option Word :=
  match fs.toNat with
  | 25 => if v.extractLsb' 8 24 ≠ 0 then none
      else some (v.extractLsb' 1 7 ++ s.fcsr.extractLsb' 24 1 ++ v.extractLsb' 0 1 ++ s.fcsr.extractLsb' 0 23)
  | 26 => if v.extractLsb' 18 5 ≠ 0 then none
      else some (s.fcsr.extractLsb' 18 14 ++ v.extractLsb' 12 6 ++ s.fcsr.extractLsb' 7 5 ++ v.extractLsb' 2 5
        ++ s.fcsr.extractLsb' 0 2)
  | 28 => if v.extractLsb' 18 5 ≠ 0 then none
      else some (s.fcsr.extractLsb' 25 7 ++ v.extractLsb' 2 1 ++ s.fcsr.extractLsb' 12 12 ++ v.extractLsb' 7 5
        ++ s.fcsr.extractLsb' 2 5 ++ v.extractLsb' 0 2)
  | 31 => if v.extractLsb' 18 5 ≠ 0 then none else some v
  | _ => none

/-- CFC1: free where the control register does not exist (spec/48_fpu_move.md R288, U16). -/
def execCfc1 (rt fs : Reg) (s : State) : Result :=
  s.withCp1 (.next ((s.retire [rt]).writeGpr rt ((s.readFcr fs).getD (s.freeWord .fcrAbsent))))
/-- CTC1: refused in the UNPREDICTABLE cases; the written Cause may trap at once (spec/48_fpu_move.md R289). -/
def execCtc1 (rt fs : Reg) (s : State) : Result :=
  s.withCp1 (match s.writeFcr fs (s.srcRt rt) with
    | none => .refused .ctc1Unpredictable
    | some w =>
      if fcsrTraps w then .next (State.raise { s with fcsr := w } .floatingPoint)
      else .next { s.retire [] with fcsr := w })

/-! ## Formatted moves (spec/48_fpu_move.md R290) -/

/-- The move that happens: the bits are copied, FCSR is not touched. -/
def State.fpMove (s : State) (fmt : Fmt) (fs fd : Reg) : Result :=
  .next (((s.fpSpoil .spoilFirst fs fmt).retire []).storeFpr fd fmt
    (if s.holds fs fmt then s.valueFpr fs fmt else s.freeFpr .fprResult fmt))

/-- The conditional move that does not happen: fd keeps its value in the format, or has no known value (R290). -/
def State.fpKeep (s : State) (fmt : Fmt) (fd : Reg) : Result :=
  .next (if s.holds fd fmt then (s.retire []).storeFpr fd fmt (s.valueFpr fd fmt)
    else (s.retire []).storeFprAs fd fmt (s.freeFpr .fprResult fmt) .unknown)

/-- The instruction i, a formatted move that happens if cond holds. FPUnimplemented is asked first, whether the move
happens or not, about fs and the further operand values b and c (spec/49_fpu_arith.md R302; R290 does not say when a
move raises Unimplemented Operation: DESIGN CHOICE, log 28). fs needs to hold the format only where the move happens, as
in the pseudocode; R290's words do not say: DESIGN CHOICE (log 25). -/
def State.fpMoveIf (s : State) (i : Instr) (fmt : Fmt) (b c : BitVec 64) (cond : Bool) (fs fd : Reg) : Result :=
  s.withCp1 (s.withEven fmt [fs, fd] (
    if s.fpListed i (s.fpOperand .fprFirst fs fmt) b c then s.fpFinish .justUnimplemented id
    else if cond then s.fpMove fmt fs fd
    else s.fpKeep fmt fd))

/-- MOV.fmt, which always moves (spec/48_fpu_move.md R291). -/
def State.fpMoveAlways (s : State) (i : Instr) (fmt : Fmt) (fs fd : Reg) : Result := s.fpMoveIf i fmt 0 0 true fs fd

/-- A move on a condition code (spec/48_fpu_move.md R292, R293); its operands are fs, the code's bit and fd. -/
def State.fpMoveCc (s : State) (i : Instr) (fmt : Fmt) (cc : Cc) (tf : Bool) (fs fd : Reg) : Result :=
  s.fpMoveIf i fmt ((BitVec.ofBool (s.fpCc cc)).setWidth 64) (s.fpOperand .fprSecond fd fmt) (s.fpCc cc == tf) fs fd

/-- A move on GPR[rt] (spec/48_fpu_move.md R294, R295); its operands are fs, GPR[rt] and fd. -/
def State.fpMoveGpr (s : State) (i : Instr) (fmt : Fmt) (rt : Reg) (cond : Word → Bool) (fs fd : Reg) : Result :=
  s.fpMoveIf i fmt ((s.srcRt rt).setWidth 64) (s.fpOperand .fprSecond fd fmt) (cond (s.srcRt rt)) fs fd

/-- MOV.S (spec/48_fpu_move.md R291). -/
def execMovS (fs fd : Reg) (s : State) : Result := s.fpMoveAlways (.movS fs fd) .s fs fd
/-- MOV.D (spec/48_fpu_move.md R291). -/
def execMovD (fs fd : Reg) (s : State) : Result := s.fpMoveAlways (.movD fs fd) .d fs fd
/-- MOVF.S (spec/48_fpu_move.md R292). -/
def execMovfS (cc : Cc) (fs fd : Reg) (s : State) : Result := s.fpMoveCc (.movfS cc fs fd) .s cc false fs fd
/-- MOVF.D (spec/48_fpu_move.md R292). -/
def execMovfD (cc : Cc) (fs fd : Reg) (s : State) : Result := s.fpMoveCc (.movfD cc fs fd) .d cc false fs fd
/-- MOVT.S (spec/48_fpu_move.md R293). -/
def execMovtS (cc : Cc) (fs fd : Reg) (s : State) : Result := s.fpMoveCc (.movtS cc fs fd) .s cc true fs fd
/-- MOVT.D (spec/48_fpu_move.md R293). -/
def execMovtD (cc : Cc) (fs fd : Reg) (s : State) : Result := s.fpMoveCc (.movtD cc fs fd) .d cc true fs fd
/-- MOVN.S (spec/48_fpu_move.md R294). -/
def execMovnS (rt fs fd : Reg) (s : State) : Result := s.fpMoveGpr (.movnS rt fs fd) .s rt (fun v => v ≠ 0) fs fd
/-- MOVN.D (spec/48_fpu_move.md R294). -/
def execMovnD (rt fs fd : Reg) (s : State) : Result := s.fpMoveGpr (.movnD rt fs fd) .d rt (fun v => v ≠ 0) fs fd
/-- MOVZ.S (spec/48_fpu_move.md R295). -/
def execMovzS (rt fs fd : Reg) (s : State) : Result := s.fpMoveGpr (.movzS rt fs fd) .s rt (fun v => v = 0) fs fd
/-- MOVZ.D (spec/48_fpu_move.md R295). -/
def execMovzD (rt fs fd : Reg) (s : State) : Result := s.fpMoveGpr (.movzD rt fs fd) .d rt (fun v => v = 0) fs fd

end Sys2Proof.Machine
end

