-- ==== Sys2Proof/Machine/FpuArith.lean ====
section
/-! DEFINITION. The FPU's arithmetic, compares, conversions and branches (spec/49_fpu_arith.md). -/
namespace Sys2Proof.Machine

/-- What an operation needs of the state. -/
def State.fpEnv (s : State) : FpEnv where
  rm := fcsrRm s.fcsr
  underflowEnabled := (fcsrEnables s.fcsr).getLsbD 1
  nan2008 := s.cfg.nan2008
  nanDraw := s.free .quietNan

/-- An operand as a number. -/
def State.fpNumber (s : State) (fmt : Fmt) (v : BitVec 64) : FpVal :=
  match fmt with
  | .w => fpOfInt (v.setWidth 32)
  | _ => fpUnpack (fpFormat fmt) s.cfg.nan2008 v

/-- Under DenormMode = unimplemented, a subnormal operand or result (spec/49_fpu_arith.md R300(c), R302). -/
def State.fpDenormal (s : State) (fmt : Fmt) (v : BitVec 64) : Bool :=
  decide (s.cfg.denormMode = .unimplemented) && decide (fmt ≠ .w) && fpSubnormal (fpFormat fmt) v

/-- The instruction, with operands of this format, meets Unimplemented Operation on their values
(spec/49_fpu_arith.md R302). -/
def State.fpUnimplementedOn (s : State) (i : Instr) (fmt : Fmt) (a b : BitVec 64) : Bool :=
  s.fpListed i a b 0 || s.fpDenormal fmt a || s.fpDenormal fmt b

/-- The result of an operation with Unimplemented Operation in its place where R302 says so; dst is the format of the
result. -/
def State.fpChecked (s : State) (i : Instr) (fmt dst : Fmt) (a b : BitVec 64) (out : FpOut) : FpOut :=
  if s.fpUnimplementedOn i fmt a b || s.fpDenormal dst out.value then ⟨.justUnimplemented, out.value⟩ else out

/-- The value written: the result, or a free one where an operand was not in its format (spec/49_fpu_arith.md R304,
U20). -/
def State.fpWritten (s : State) (good : Bool) (dst : Fmt) (v : BitVec 64) : BitVec 64 :=
  if good then v else s.freeFpr .fprResult dst

/-- An operation on two operands of a format (spec/49_fpu_arith.md R304, R307 to R310). -/
def State.fpBinary (s : State) (i : Instr) (fmt : Fmt) (f : FpEnv → FpFormat → FpVal → FpVal → FpOut)
    (ft fs fd : Reg) : Result :=
  s.withCp1 (s.withEven fmt [fs, ft, fd] (
    let a := s.fpOperand .fprFirst fs fmt
    let b := s.fpOperand .fprSecond ft fmt
    let out := s.fpChecked i fmt fmt a b (f s.fpEnv (fpFormat fmt) (s.fpNumber fmt a) (s.fpNumber fmt b))
    ((s.fpSpoil .spoilFirst fs fmt).fpSpoil .spoilSecond ft fmt).fpFinish out.conds
      (fun t => t.storeFpr fd fmt (s.fpWritten (s.holds fs fmt && s.holds ft fmt) fmt out.value))))

/-- An operation on one operand, with a result in the format dst (spec/49_fpu_arith.md R304, R305, R311, R316 to R322). -/
def State.fpUnary (s : State) (i : Instr) (fmt dst : Fmt) (f : BitVec 64 → FpOut) (fs fd : Reg) : Result :=
  s.withCp1 (s.withEven fmt [fs] (s.withEven dst [fd] (
    let a := s.fpOperand .fprFirst fs fmt
    let out := s.fpChecked i fmt dst a 0 (f a)
    (s.fpSpoil .spoilFirst fs fmt).fpFinish out.conds
      (fun t => t.storeFpr fd dst (s.fpWritten (s.holds fs fmt) dst out.value)))))

/-- ABS and NEG (spec/49_fpu_arith.md R305, R306). -/
def State.fpSign (s : State) (i : Instr) (fmt : Fmt) (sign : Bool → Bool) (fs fd : Reg) : Result :=
  s.fpUnary i fmt fmt (fun v => fpSignOp s.fpEnv (fpFormat fmt) s.cfg.absNegQnanInvalid sign v) fs fd

/-- SQRT (spec/49_fpu_arith.md R311). -/
def State.fpRoot (s : State) (i : Instr) (fmt : Fmt) (fs fd : Reg) : Result :=
  s.fpUnary i fmt fmt (fun v => fpSqrt s.fpEnv (fpFormat fmt) (s.fpNumber fmt v)) fs fd

/-- CVT.S and CVT.D (spec/49_fpu_arith.md R316, R317). -/
def State.fpCvt (s : State) (i : Instr) (fmt dst : Fmt) (fs fd : Reg) : Result :=
  s.fpUnary i fmt dst (fun v => fpConvert s.fpEnv (fpFormat dst) (s.fpNumber fmt v)) fs fd

/-- Conversion to W in a rounding mode (spec/49_fpu_arith.md R318 to R322). -/
def State.fpToW (s : State) (i : Instr) (fmt : Fmt) (rm : BitVec 2) (fs fd : Reg) : Result :=
  s.fpUnary i fmt .w (fun v => fpToWord rm (s.fpNumber fmt v)) fs fd

/-- C.cond.fmt (spec/49_fpu_arith.md R312). -/
def State.fpCmp (s : State) (i : Instr) (fmt : Fmt) (cond : BitVec 4) (ft fs : Reg) (cc : Cc) : Result :=
  s.withCp1 (s.withEven fmt [fs, ft] (
    let a := s.fpOperand .fprFirst fs fmt
    let b := s.fpOperand .fprSecond ft fmt
    let out := fpCompare cond (s.fpNumber fmt a) (s.fpNumber fmt b)
    let conds := if s.fpUnimplementedOn i fmt a b then .justUnimplemented else out.2
    ((s.fpSpoil .spoilFirst fs fmt).fpSpoil .spoilSecond ft fmt).fpFinish conds
      (fun t => t.setFpCc cc (if s.holds fs fmt && s.holds ft fmt then out.1 else s.freeBit .fpCondition))))

/-- BC1F, BC1T and their likely forms (spec/49_fpu_arith.md R323). The one operand value FPUnimplemented is asked about
is the condition code's bit; the code's number stands in the instruction (R302 names no operand: DESIGN CHOICE,
log 28). -/
def State.fpBranch (s : State) (i : Instr) (cc : Cc) (likely tf : Bool) (off : Half) : Result :=
  if s.inDelaySlot then .refused .controlInDelaySlot
  else s.withCp1 (
    if s.fpListed i ((BitVec.ofBool (s.fpCc cc)).setWidth 64) 0 0 then s.fpFinish .justUnimplemented id
    else s.branch likely (s.fpCc cc == tf) off)

/-- ADD.S (spec/49_fpu_arith.md R307). -/
def execAddS (ft fs fd : Reg) (s : State) : Result := s.fpBinary (.addS ft fs fd) .s fpAdd ft fs fd
/-- ADD.D (spec/49_fpu_arith.md R307). -/
def execAddD (ft fs fd : Reg) (s : State) : Result := s.fpBinary (.addD ft fs fd) .d fpAdd ft fs fd
/-- SUB.S (spec/49_fpu_arith.md R308). -/
def execSubS (ft fs fd : Reg) (s : State) : Result := s.fpBinary (.subS ft fs fd) .s fpSub ft fs fd
/-- SUB.D (spec/49_fpu_arith.md R308). -/
def execSubD (ft fs fd : Reg) (s : State) : Result := s.fpBinary (.subD ft fs fd) .d fpSub ft fs fd
/-- MUL.S (spec/49_fpu_arith.md R309). -/
def execMulS (ft fs fd : Reg) (s : State) : Result := s.fpBinary (.mulS ft fs fd) .s fpMul ft fs fd
/-- MUL.D (spec/49_fpu_arith.md R309). -/
def execMulD (ft fs fd : Reg) (s : State) : Result := s.fpBinary (.mulD ft fs fd) .d fpMul ft fs fd
/-- DIV.S (spec/49_fpu_arith.md R310). -/
def execDivS (ft fs fd : Reg) (s : State) : Result := s.fpBinary (.divS ft fs fd) .s fpDiv ft fs fd
/-- DIV.D (spec/49_fpu_arith.md R310). -/
def execDivD (ft fs fd : Reg) (s : State) : Result := s.fpBinary (.divD ft fs fd) .d fpDiv ft fs fd
/-- SQRT.S (spec/49_fpu_arith.md R311). -/
def execSqrtS (fs fd : Reg) (s : State) : Result := s.fpRoot (.sqrtS fs fd) .s fs fd
/-- SQRT.D (spec/49_fpu_arith.md R311). -/
def execSqrtD (fs fd : Reg) (s : State) : Result := s.fpRoot (.sqrtD fs fd) .d fs fd
/-- ABS.S (spec/49_fpu_arith.md R305). -/
def execAbsS (fs fd : Reg) (s : State) : Result := s.fpSign (.absS fs fd) .s (fun _ => false) fs fd
/-- ABS.D (spec/49_fpu_arith.md R305). -/
def execAbsD (fs fd : Reg) (s : State) : Result := s.fpSign (.absD fs fd) .d (fun _ => false) fs fd
/-- NEG.S (spec/49_fpu_arith.md R306). -/
def execNegS (fs fd : Reg) (s : State) : Result := s.fpSign (.negS fs fd) .s (fun n => !n) fs fd
/-- NEG.D (spec/49_fpu_arith.md R306). -/
def execNegD (fs fd : Reg) (s : State) : Result := s.fpSign (.negD fs fd) .d (fun n => !n) fs fd
/-- C.F.S (spec/49_fpu_arith.md R312, R313). -/
def execCFS (ft fs : Reg) (cc : Cc) (s : State) : Result := s.fpCmp (.cFS ft fs cc) .s 0 ft fs cc
/-- C.F.D (spec/49_fpu_arith.md R312, R313). -/
def execCFD (ft fs : Reg) (cc : Cc) (s : State) : Result := s.fpCmp (.cFD ft fs cc) .d 0 ft fs cc
/-- C.UN.S (spec/49_fpu_arith.md R312, R313). -/
def execCUnS (ft fs : Reg) (cc : Cc) (s : State) : Result := s.fpCmp (.cUnS ft fs cc) .s 1 ft fs cc
/-- C.UN.D (spec/49_fpu_arith.md R312, R313). -/
def execCUnD (ft fs : Reg) (cc : Cc) (s : State) : Result := s.fpCmp (.cUnD ft fs cc) .d 1 ft fs cc
/-- C.EQ.S (spec/49_fpu_arith.md R312, R313). -/
def execCEqS (ft fs : Reg) (cc : Cc) (s : State) : Result := s.fpCmp (.cEqS ft fs cc) .s 2 ft fs cc
/-- C.EQ.D (spec/49_fpu_arith.md R312, R313). -/
def execCEqD (ft fs : Reg) (cc : Cc) (s : State) : Result := s.fpCmp (.cEqD ft fs cc) .d 2 ft fs cc
/-- C.UEQ.S (spec/49_fpu_arith.md R312, R313). -/
def execCUeqS (ft fs : Reg) (cc : Cc) (s : State) : Result := s.fpCmp (.cUeqS ft fs cc) .s 3 ft fs cc
/-- C.UEQ.D (spec/49_fpu_arith.md R312, R313). -/
def execCUeqD (ft fs : Reg) (cc : Cc) (s : State) : Result := s.fpCmp (.cUeqD ft fs cc) .d 3 ft fs cc
/-- C.OLT.S (spec/49_fpu_arith.md R312, R313). -/
def execCOltS (ft fs : Reg) (cc : Cc) (s : State) : Result := s.fpCmp (.cOltS ft fs cc) .s 4 ft fs cc
/-- C.OLT.D (spec/49_fpu_arith.md R312, R313). -/
def execCOltD (ft fs : Reg) (cc : Cc) (s : State) : Result := s.fpCmp (.cOltD ft fs cc) .d 4 ft fs cc
/-- C.ULT.S (spec/49_fpu_arith.md R312, R313). -/
def execCUltS (ft fs : Reg) (cc : Cc) (s : State) : Result := s.fpCmp (.cUltS ft fs cc) .s 5 ft fs cc
/-- C.ULT.D (spec/49_fpu_arith.md R312, R313). -/
def execCUltD (ft fs : Reg) (cc : Cc) (s : State) : Result := s.fpCmp (.cUltD ft fs cc) .d 5 ft fs cc
/-- C.OLE.S (spec/49_fpu_arith.md R312, R313). -/
def execCOleS (ft fs : Reg) (cc : Cc) (s : State) : Result := s.fpCmp (.cOleS ft fs cc) .s 6 ft fs cc
/-- C.OLE.D (spec/49_fpu_arith.md R312, R313). -/
def execCOleD (ft fs : Reg) (cc : Cc) (s : State) : Result := s.fpCmp (.cOleD ft fs cc) .d 6 ft fs cc
/-- C.ULE.S (spec/49_fpu_arith.md R312, R313). -/
def execCUleS (ft fs : Reg) (cc : Cc) (s : State) : Result := s.fpCmp (.cUleS ft fs cc) .s 7 ft fs cc
/-- C.ULE.D (spec/49_fpu_arith.md R312, R313). -/
def execCUleD (ft fs : Reg) (cc : Cc) (s : State) : Result := s.fpCmp (.cUleD ft fs cc) .d 7 ft fs cc
/-- C.SF.S (spec/49_fpu_arith.md R312, R314). -/
def execCSfS (ft fs : Reg) (cc : Cc) (s : State) : Result := s.fpCmp (.cSfS ft fs cc) .s 8 ft fs cc
/-- C.SF.D (spec/49_fpu_arith.md R312, R314). -/
def execCSfD (ft fs : Reg) (cc : Cc) (s : State) : Result := s.fpCmp (.cSfD ft fs cc) .d 8 ft fs cc
/-- C.NGLE.S (spec/49_fpu_arith.md R312, R314). -/
def execCNgleS (ft fs : Reg) (cc : Cc) (s : State) : Result := s.fpCmp (.cNgleS ft fs cc) .s 9 ft fs cc
/-- C.NGLE.D (spec/49_fpu_arith.md R312, R314). -/
def execCNgleD (ft fs : Reg) (cc : Cc) (s : State) : Result := s.fpCmp (.cNgleD ft fs cc) .d 9 ft fs cc
/-- C.SEQ.S (spec/49_fpu_arith.md R312, R314). -/
def execCSeqS (ft fs : Reg) (cc : Cc) (s : State) : Result := s.fpCmp (.cSeqS ft fs cc) .s 10 ft fs cc
/-- C.SEQ.D (spec/49_fpu_arith.md R312, R314). -/
def execCSeqD (ft fs : Reg) (cc : Cc) (s : State) : Result := s.fpCmp (.cSeqD ft fs cc) .d 10 ft fs cc
/-- C.NGL.S (spec/49_fpu_arith.md R312, R314). -/
def execCNglS (ft fs : Reg) (cc : Cc) (s : State) : Result := s.fpCmp (.cNglS ft fs cc) .s 11 ft fs cc
/-- C.NGL.D (spec/49_fpu_arith.md R312, R314). -/
def execCNglD (ft fs : Reg) (cc : Cc) (s : State) : Result := s.fpCmp (.cNglD ft fs cc) .d 11 ft fs cc
/-- C.LT.S (spec/49_fpu_arith.md R312, R314). -/
def execCLtS (ft fs : Reg) (cc : Cc) (s : State) : Result := s.fpCmp (.cLtS ft fs cc) .s 12 ft fs cc
/-- C.LT.D (spec/49_fpu_arith.md R312, R314). -/
def execCLtD (ft fs : Reg) (cc : Cc) (s : State) : Result := s.fpCmp (.cLtD ft fs cc) .d 12 ft fs cc
/-- C.NGE.S (spec/49_fpu_arith.md R312, R314). -/
def execCNgeS (ft fs : Reg) (cc : Cc) (s : State) : Result := s.fpCmp (.cNgeS ft fs cc) .s 13 ft fs cc
/-- C.NGE.D (spec/49_fpu_arith.md R312, R314). -/
def execCNgeD (ft fs : Reg) (cc : Cc) (s : State) : Result := s.fpCmp (.cNgeD ft fs cc) .d 13 ft fs cc
/-- C.LE.S (spec/49_fpu_arith.md R312, R314). -/
def execCLeS (ft fs : Reg) (cc : Cc) (s : State) : Result := s.fpCmp (.cLeS ft fs cc) .s 14 ft fs cc
/-- C.LE.D (spec/49_fpu_arith.md R312, R314). -/
def execCLeD (ft fs : Reg) (cc : Cc) (s : State) : Result := s.fpCmp (.cLeD ft fs cc) .d 14 ft fs cc
/-- C.NGT.S (spec/49_fpu_arith.md R312, R314). -/
def execCNgtS (ft fs : Reg) (cc : Cc) (s : State) : Result := s.fpCmp (.cNgtS ft fs cc) .s 15 ft fs cc
/-- C.NGT.D (spec/49_fpu_arith.md R312, R314). -/
def execCNgtD (ft fs : Reg) (cc : Cc) (s : State) : Result := s.fpCmp (.cNgtD ft fs cc) .d 15 ft fs cc
/-- CVT.D.S (spec/49_fpu_arith.md R316). -/
def execCvtDS (fs fd : Reg) (s : State) : Result := s.fpCvt (.cvtDS fs fd) .s .d fs fd
/-- CVT.D.W (spec/49_fpu_arith.md R316). -/
def execCvtDW (fs fd : Reg) (s : State) : Result := s.fpCvt (.cvtDW fs fd) .w .d fs fd
/-- CVT.S.D (spec/49_fpu_arith.md R317). -/
def execCvtSD (fs fd : Reg) (s : State) : Result := s.fpCvt (.cvtSD fs fd) .d .s fs fd
/-- CVT.S.W (spec/49_fpu_arith.md R317). -/
def execCvtSW (fs fd : Reg) (s : State) : Result := s.fpCvt (.cvtSW fs fd) .w .s fs fd
/-- CVT.W.S (spec/49_fpu_arith.md R318). -/
def execCvtWS (fs fd : Reg) (s : State) : Result := s.fpToW (.cvtWS fs fd) .s (fcsrRm s.fcsr) fs fd
/-- CVT.W.D (spec/49_fpu_arith.md R318). -/
def execCvtWD (fs fd : Reg) (s : State) : Result := s.fpToW (.cvtWD fs fd) .d (fcsrRm s.fcsr) fs fd
/-- ROUND.W.S (spec/49_fpu_arith.md R319). -/
def execRoundWS (fs fd : Reg) (s : State) : Result := s.fpToW (.roundWS fs fd) .s 0 fs fd
/-- ROUND.W.D (spec/49_fpu_arith.md R319). -/
def execRoundWD (fs fd : Reg) (s : State) : Result := s.fpToW (.roundWD fs fd) .d 0 fs fd
/-- TRUNC.W.S (spec/49_fpu_arith.md R320). -/
def execTruncWS (fs fd : Reg) (s : State) : Result := s.fpToW (.truncWS fs fd) .s 1 fs fd
/-- TRUNC.W.D (spec/49_fpu_arith.md R320). -/
def execTruncWD (fs fd : Reg) (s : State) : Result := s.fpToW (.truncWD fs fd) .d 1 fs fd
/-- CEIL.W.S (spec/49_fpu_arith.md R321). -/
def execCeilWS (fs fd : Reg) (s : State) : Result := s.fpToW (.ceilWS fs fd) .s 2 fs fd
/-- CEIL.W.D (spec/49_fpu_arith.md R321). -/
def execCeilWD (fs fd : Reg) (s : State) : Result := s.fpToW (.ceilWD fs fd) .d 2 fs fd
/-- FLOOR.W.S (spec/49_fpu_arith.md R328). -/
def execFloorWS (fs fd : Reg) (s : State) : Result := s.fpToW (.floorWS fs fd) .s 3 fs fd
/-- FLOOR.W.D (spec/49_fpu_arith.md R328). -/
def execFloorWD (fs fd : Reg) (s : State) : Result := s.fpToW (.floorWD fs fd) .d 3 fs fd
/-- BC1F (spec/49_fpu_arith.md R324). -/
def execBc1f (cc : Cc) (off : Half) (s : State) : Result := s.fpBranch (.bc1f cc off) cc false false off
/-- BC1FL (spec/49_fpu_arith.md R325). -/
def execBc1fl (cc : Cc) (off : Half) (s : State) : Result := s.fpBranch (.bc1fl cc off) cc true false off
/-- BC1T (spec/49_fpu_arith.md R326). -/
def execBc1t (cc : Cc) (off : Half) (s : State) : Result := s.fpBranch (.bc1t cc off) cc false true off
/-- BC1TL (spec/49_fpu_arith.md R327). -/
def execBc1tl (cc : Cc) (off : Half) (s : State) : Result := s.fpBranch (.bc1tl cc off) cc true true off

end Sys2Proof.Machine
end

