-- ==== Sys2Proof/Machine/LoadStore.lean ====
section
/-! DEFINITION. The CPU loads and stores (spec/40_load_store.md), all in the frame of R140. -/
namespace Sys2Proof.Machine

/-- A load that completes: rt takes the value, which the next instruction must not read, and a link may be lost
(spec/10_state.md R32, spec/20_memory.md R84(b)). -/
def State.finishLoad (s : State) (rt : Reg) (v : Word) : State :=
  { ((s.retire [rt]).disturbLink).writeGpr rt v with loadPending := some rt }

/-- A load of n bytes: the frame of R140 around a read of memory. -/
def State.loadGpr (s : State) (base rt : Reg) (off : Half) (n : Nat) (read : PAddr → Acc Word) : Result :=
  (((s.locate (s.effAddr base off) n .load).bind read).bind (fun v => .ok (s.finishLoad rt v))).outcome s

/-- A store of n bytes: the frame of R140 around a write of memory. -/
def State.storeGpr (s : State) (base : Reg) (off : Half) (n : Nat) (write : State → PAddr → Acc State) : Result :=
  ((s.locate (s.effAddr base off) n .store).bind (write (s.retire []).disturbLink)).outcome s

/-- LB (spec/40_load_store.md R141). -/
def execLb (base rt : Reg) (off : Half) (s : State) : Result :=
  s.loadGpr base rt off 1 (fun pa => (s.memByte pa).bind (fun b => .ok (sext8 b)))
/-- LBU (spec/40_load_store.md R142). -/
def execLbu (base rt : Reg) (off : Half) (s : State) : Result :=
  s.loadGpr base rt off 1 (fun pa => (s.memByte pa).bind (fun b => .ok (zext8 b)))
/-- LH (spec/40_load_store.md R143). -/
def execLh (base rt : Reg) (off : Half) (s : State) : Result :=
  s.loadGpr base rt off 2 (fun pa => (s.memHalf pa).bind (fun h => .ok (sext16 h)))
/-- LHU (spec/40_load_store.md R144). -/
def execLhu (base rt : Reg) (off : Half) (s : State) : Result :=
  s.loadGpr base rt off 2 (fun pa => (s.memHalf pa).bind (fun h => .ok (zext16 h)))
/-- LW (spec/40_load_store.md R145). -/
def execLw (base rt : Reg) (off : Half) (s : State) : Result := s.loadGpr base rt off 4 (fun pa => s.memWord pa)
/-- LWL: rt is a merge operand, free of the load delay (spec/40_load_store.md R146). -/
def execLwl (base rt : Reg) (off : Half) (s : State) : Result :=
  s.loadGpr base rt off 1 (fun pa =>
    (s.memWord (wordPlace pa)).bind (fun m => .ok (lwlMerge (s.byteLane (s.effAddr base off)) m (s.readGpr rt))))
/-- LWR (spec/40_load_store.md R147). -/
def execLwr (base rt : Reg) (off : Half) (s : State) : Result :=
  s.loadGpr base rt off 1 (fun pa =>
    (s.memWord (wordPlace pa)).bind (fun m => .ok (lwrMerge (s.byteLane (s.effAddr base off)) m (s.readGpr rt))))
/-- LL: as LW, and the link starts (spec/40_load_store.md R148, spec/20_memory.md R84). -/
def execLl (base rt : Reg) (off : Half) (s : State) : Result :=
  ((s.locate (s.effAddr base off) 4 .load).bind (fun pa => (s.memWord pa).bind (fun v =>
    let va := s.effAddr base off
    .ok { s.finishLoad rt v with
      llBit := true, llAddr := pa, llVa := va, llAttr := s.attribute va .load, llLo := s.pc, llHi := s.pc }))).outcome s
/-- SB (spec/40_load_store.md R149). -/
def execSb (base rt : Reg) (off : Half) (s : State) : Result :=
  s.storeGpr base off 1 (fun u pa => u.putByte pa ((s.srcRt rt).extractLsb' 0 8))
/-- SH (spec/40_load_store.md R150). -/
def execSh (base rt : Reg) (off : Half) (s : State) : Result :=
  s.storeGpr base off 2 (fun u pa => u.putHalf pa ((s.srcRt rt).extractLsb' 0 16))
/-- SW (spec/40_load_store.md R151). -/
def execSw (base rt : Reg) (off : Half) (s : State) : Result :=
  s.storeGpr base off 4 (fun u pa => u.putWord pa (s.srcRt rt))
/-- SWL: lanes 0 to byte take the high bytes of rt (spec/40_load_store.md R152). -/
def execSwl (base rt : Reg) (off : Half) (s : State) : Result :=
  s.storeGpr base off 1 (fun u pa =>
    u.putLanes pa (fun k => decide (k ≤ s.byteLane (s.effAddr base off)))
      (s.srcRt rt >>> (24 - 8 * s.byteLane (s.effAddr base off))))
/-- SWR: lanes byte to 3 take the low bytes of rt (spec/40_load_store.md R153). -/
def execSwr (base rt : Reg) (off : Half) (s : State) : Result :=
  s.storeGpr base off 1 (fun u pa =>
    u.putLanes pa (fun k => decide (s.byteLane (s.effAddr base off) ≤ k))
      (s.srcRt rt <<< (8 * s.byteLane (s.effAddr base off))))

/-- Whether an SC at this virtual and physical address succeeds: LLbit is set, and where the address (R84(c)) or the
extent is not the link's, by a free bit (spec/20_memory.md R84, U10, U11; DESIGN CHOICE, log 20). -/
def State.scSucceeds (s : State) (va : Word) (pa : PAddr) : Bool :=
  s.llBit && ((s.sameLink va pa && s.linkExtentOk) || s.freeBit .scOutcome)

/-- An SC that completes: rt takes the success bit, the link ends (spec/40_load_store.md R154). -/
def State.finishSc (s : State) (rt : Reg) (ok : Bool) : State :=
  { (s.retire [rt]).writeGpr rt (if ok then 1 else 0) with llBit := false }

/-- SC (spec/40_load_store.md R154). -/
def execSc (base rt : Reg) (off : Half) (s : State) : Result :=
  ((s.locate (s.effAddr base off) 4 .store).bind (fun pa =>
    if s.scSucceeds (s.effAddr base off) pa then (s.finishSc rt true).putWord pa (s.srcRt rt)
    else .ok (s.finishSc rt false))).outcome s

end Sys2Proof.Machine
end

