-- ==== Sys2Proof/Machine/MulDiv.lean ====
section
/-! DEFINITION. Multiply, divide and the moves of HI and LO (spec/44_muldiv.md), with the write-after-read window of R214
and the pair rule of R216. In a step, what an MFHI or MFLO delivers is free already where a later writer undoes it
(State.settle in Window.lean). -/
namespace Sys2Proof.Machine

/-- A writer of HI (hi) or LO (lo) undoes what this MFHI or MFLO delivered (spec/44_muldiv.md R214). -/
def HiLoRead.undoneBy (hi lo : Bool) (e : HiLoRead) : Bool := if e.fromHi then hi else lo

/-- The value an MFHI or MFLO delivered becomes undefined, hence free (spec/44_muldiv.md R214, U6). -/
def State.spoilEntry (s : State) (hi lo : Bool) (site : DrawSite) (e : Option HiLoRead) : State :=
  match e with
  | some e => if e.undoneBy hi lo then s.writeGpr e.rd (s.freeWord site) else s
  | none => s

/-- The values of the two-instruction window become free, once (spec/44_muldiv.md R214, U6, log 14). -/
def State.spoilWindow (s : State) (hi lo : Bool) : State :=
  { (s.spoilEntry hi lo .window2 s.hist2).spoilEntry hi lo .window1 s.hist1 with
    hist1 := s.hist1.filter (fun e => !e.undoneBy hi lo)
    hist2 := s.hist2.filter (fun e => !e.undoneBy hi lo) }

/-- A writer of HI (hi) or LO (lo): the window first, then the write. -/
def State.writerOf (s : State) (hi lo : Bool) (k : State → State) : Result := .next (k (s.spoilWindow hi lo))

/-- HI and LO take a 64-bit result. -/
def State.setHiLo (s : State) (v : DWord) : State := { s with hi := v.extractLsb' 32 32, lo := v.extractLsb' 0 32 }

/-- The signed product, 64 bits (spec/44_muldiv.md R200). -/
def signedProduct (a b : Word) : DWord := a.signExtend 64 * b.signExtend 64

/-- The unsigned product, 64 bits (spec/44_muldiv.md R201). -/
def unsignedProduct (a b : Word) : DWord := a.setWidth 64 * b.setWidth 64

/-- MULT and MULTU: the pair takes the product and holds one result (spec/44_muldiv.md R200, R201, R216). -/
def State.multiply (s : State) (rs rt : Reg) (f : Word → Word → DWord) : Result :=
  s.writerOf true true (fun u =>
    { (u.retire []).setHiLo (f (u.srcRs rs) (u.srcRt rt)) with pairFresh := true })

/-- MADD to MSUBU: the pair is accumulated into; no window (spec/44_muldiv.md R203 to R206, R214). -/
def State.accumulate (s : State) (rs rt : Reg) (f : DWord → Word → Word → DWord) : Result :=
  .next ((s.retire []).setHiLo (f (s.hi ++ s.lo) (s.srcRs rs) (s.srcRt rt)))

/-- DIV and DIVU: quotient to LO, remainder to HI; both free after a division by zero (spec/44_muldiv.md R208, R209,
U3). -/
def State.divide (s : State) (rs rt : Reg) (quot rem : Word → Word → Word) : Result :=
  s.writerOf true true (fun u =>
    let a := u.srcRs rs
    let b := u.srcRt rt
    { u.retire [] with
      hi := if b = 0 then u.freeWord .hiValue else rem a b
      lo := if b = 0 then u.freeWord .loValue else quot a b
      pairFresh := true })

/-- The move from HI or LO to rd, which opens the window (spec/44_muldiv.md R210, R211, R214). -/
def State.moveFrom (s : State) (fromHi : Bool) (rd : Reg) : Result :=
  .next { (s.retire [rd]).writeGpr rd (if fromHi then s.hi else s.lo) with
    pairFresh := false
    hist1 := if rd = 0 then none else some ⟨fromHi, rd⟩ }

/-- MULT (spec/44_muldiv.md R200). -/
def execMult (rs rt : Reg) (s : State) : Result := s.multiply rs rt signedProduct
/-- MULTU (spec/44_muldiv.md R201). -/
def execMultu (rs rt : Reg) (s : State) : Result := s.multiply rs rt unsignedProduct
/-- MUL: HI and LO are free afterwards (spec/44_muldiv.md R202, U4). -/
def execMul (rs rt rd : Reg) (s : State) : Result :=
  .next { (s.retire [rd]).writeGpr rd (s.srcRs rs * s.srcRt rt) with
    hi := s.freeWord .hiValue
    lo := s.freeWord .loValue }
/-- MADD (spec/44_muldiv.md R203). -/
def execMadd (rs rt : Reg) (s : State) : Result := s.accumulate rs rt (fun acc a b => acc + signedProduct a b)
/-- MADDU (spec/44_muldiv.md R204). -/
def execMaddu (rs rt : Reg) (s : State) : Result := s.accumulate rs rt (fun acc a b => acc + unsignedProduct a b)
/-- MSUB (spec/44_muldiv.md R205). -/
def execMsub (rs rt : Reg) (s : State) : Result := s.accumulate rs rt (fun acc a b => acc - signedProduct a b)
/-- MSUBU (spec/44_muldiv.md R206). -/
def execMsubu (rs rt : Reg) (s : State) : Result := s.accumulate rs rt (fun acc a b => acc - unsignedProduct a b)
/-- DIV: truncating toward zero, the remainder with the dividend's sign (spec/44_muldiv.md R207, R208). -/
def execDiv (rs rt : Reg) (s : State) : Result :=
  s.divide rs rt (fun a b => BitVec.ofInt 32 (a.toInt.tdiv b.toInt)) (fun a b => BitVec.ofInt 32 (a.toInt.tmod b.toInt))
/-- DIVU (spec/44_muldiv.md R209). -/
def execDivu (rs rt : Reg) (s : State) : Result :=
  s.divide rs rt (fun a b => BitVec.ofNat 32 (a.toNat / b.toNat)) (fun a b => BitVec.ofNat 32 (a.toNat % b.toNat))
/-- MFHI (spec/44_muldiv.md R210). -/
def execMfhi (rd : Reg) (s : State) : Result := s.moveFrom true rd
/-- MFLO (spec/44_muldiv.md R211). -/
def execMflo (rd : Reg) (s : State) : Result := s.moveFrom false rd
/-- MTHI: LO is free when the pair holds one unread result (spec/44_muldiv.md R212, R216, U7). -/
def execMthi (rs : Reg) (s : State) : Result :=
  s.writerOf true false (fun u =>
    { u.retire [] with
      hi := u.srcRs rs
      lo := if u.pairFresh then u.freeWord .loValue else u.lo
      pairFresh := false })
/-- MTLO: HI is free when the pair holds one unread result (spec/44_muldiv.md R213, R216, U7). -/
def execMtlo (rs : Reg) (s : State) : Result :=
  s.writerOf false true (fun u =>
    { u.retire [] with
      hi := if u.pairFresh then u.freeWord .hiValue else u.hi
      lo := u.srcRs rs
      pairFresh := false })

end Sys2Proof.Machine
end

