-- ==== Sys2Proof/Machine/Shift.lean ====
section
/-! DEFINITION. The shifts, and the idioms NOP and SSNOP (spec/43_shift.md). -/
namespace Sys2Proof.Machine

/-- GPR[rd] <- f (GPR[rt]), a constant shift. -/
def State.shiftConst (s : State) (rt rd : Reg) (f : Word → Word) : Result :=
  .next ((s.retire [rd]).writeGpr rd (f (s.srcRt rt)))

/-- GPR[rd] <- f (GPR[rt]) (GPR[rs][4:0]), a variable shift. -/
def State.shiftVar (s : State) (rs rt rd : Reg) (f : Word → Nat → Word) : Result :=
  .next ((s.retire [rd]).writeGpr rd (f (s.srcRt rt) ((s.srcRs rs).extractLsb' 0 5).toNat))

/-- SLL (spec/43_shift.md R190). -/
def execSll (rt rd : Reg) (sa : BitVec 5) (s : State) : Result := s.shiftConst rt rd (fun a => a <<< sa.toNat)
/-- SRL (spec/43_shift.md R191). -/
def execSrl (rt rd : Reg) (sa : BitVec 5) (s : State) : Result := s.shiftConst rt rd (fun a => a >>> sa.toNat)
/-- SRA (spec/43_shift.md R192). -/
def execSra (rt rd : Reg) (sa : BitVec 5) (s : State) : Result := s.shiftConst rt rd (fun a => a.sshiftRight sa.toNat)
/-- SLLV (spec/43_shift.md R193). -/
def execSllv (rs rt rd : Reg) (s : State) : Result := s.shiftVar rs rt rd (fun a n => a <<< n)
/-- SRLV (spec/43_shift.md R194). -/
def execSrlv (rs rt rd : Reg) (s : State) : Result := s.shiftVar rs rt rd (fun a n => a >>> n)
/-- SRAV (spec/43_shift.md R195). -/
def execSrav (rs rt rd : Reg) (s : State) : Result := s.shiftVar rs rt rd (fun a n => a.sshiftRight n)
/-- NOP, the word of SLL r0, r0, 0 (spec/43_shift.md R196). -/
def execNop (s : State) : Result := s.shiftConst 0 0 (fun a => a)
/-- SSNOP, the word of SLL r0, r0, 1 (spec/43_shift.md R197). -/
def execSsnop (s : State) : Result := s.shiftConst 0 0 (fun a => a <<< 1)

end Sys2Proof.Machine
end

