-- ==== Sys2Proof/Machine/Dispatch.lean ====
section
/-! DEFINITION. The meaning of each instruction, one arm per constructor of Instr. -/
namespace Sys2Proof.Machine

def exec (i : Instr) (s : State) : Host.Outcome State Fault Refusal :=
  match i with
  | .add rs rt rd => Sys2Proof.Machine.execAdd rs rt rd s
  | .addu rs rt rd => Sys2Proof.Machine.execAddu rs rt rd s
  | .sub rs rt rd => Sys2Proof.Machine.execSub rs rt rd s
  | .subu rs rt rd => Sys2Proof.Machine.execSubu rs rt rd s
  | .and rs rt rd => Sys2Proof.Machine.execAnd rs rt rd s
  | .or rs rt rd => Sys2Proof.Machine.execOr rs rt rd s
  | .xor rs rt rd => Sys2Proof.Machine.execXor rs rt rd s
  | .nor rs rt rd => Sys2Proof.Machine.execNor rs rt rd s
  | .slt rs rt rd => Sys2Proof.Machine.execSlt rs rt rd s
  | .sltu rs rt rd => Sys2Proof.Machine.execSltu rs rt rd s
  | .movn rs rt rd => Sys2Proof.Machine.execMovn rs rt rd s
  | .movz rs rt rd => Sys2Proof.Machine.execMovz rs rt rd s
  | .sllv rs rt rd => Sys2Proof.Machine.execSllv rs rt rd s
  | .srlv rs rt rd => Sys2Proof.Machine.execSrlv rs rt rd s
  | .srav rs rt rd => Sys2Proof.Machine.execSrav rs rt rd s
  | .sll rt rd sa => Sys2Proof.Machine.execSll rt rd sa s
  | .srl rt rd sa => Sys2Proof.Machine.execSrl rt rd sa s
  | .sra rt rd sa => Sys2Proof.Machine.execSra rt rd sa s
  | .mult rs rt => Sys2Proof.Machine.execMult rs rt s
  | .multu rs rt => Sys2Proof.Machine.execMultu rs rt s
  | .div rs rt => Sys2Proof.Machine.execDiv rs rt s
  | .divu rs rt => Sys2Proof.Machine.execDivu rs rt s
  | .mfhi rd => Sys2Proof.Machine.execMfhi rd s
  | .mflo rd => Sys2Proof.Machine.execMflo rd s
  | .mthi rs => Sys2Proof.Machine.execMthi rs s
  | .mtlo rs => Sys2Proof.Machine.execMtlo rs s
  | .madd rs rt => Sys2Proof.Machine.execMadd rs rt s
  | .maddu rs rt => Sys2Proof.Machine.execMaddu rs rt s
  | .msub rs rt => Sys2Proof.Machine.execMsub rs rt s
  | .msubu rs rt => Sys2Proof.Machine.execMsubu rs rt s
  | .mul rs rt rd => Sys2Proof.Machine.execMul rs rt rd s
  | .clz rs rt rd => Sys2Proof.Machine.execClz rs rt rd s
  | .clo rs rt rd => Sys2Proof.Machine.execClo rs rt rd s
  | .jr rs => Sys2Proof.Machine.execJr rs s
  | .jalr rs rd => Sys2Proof.Machine.execJalr rs rd s
  | .syscall code => Sys2Proof.Machine.execSyscall code s
  | .brk code => Sys2Proof.Machine.execBrk code s
  | .sync stype => Sys2Proof.Machine.execSync stype s
  | .tge rs rt code => Sys2Proof.Machine.execTge rs rt code s
  | .tgeu rs rt code => Sys2Proof.Machine.execTgeu rs rt code s
  | .tlt rs rt code => Sys2Proof.Machine.execTlt rs rt code s
  | .tltu rs rt code => Sys2Proof.Machine.execTltu rs rt code s
  | .teq rs rt code => Sys2Proof.Machine.execTeq rs rt code s
  | .tne rs rt code => Sys2Proof.Machine.execTne rs rt code s
  | .addi rs rt imm => Sys2Proof.Machine.execAddi rs rt imm s
  | .addiu rs rt imm => Sys2Proof.Machine.execAddiu rs rt imm s
  | .slti rs rt imm => Sys2Proof.Machine.execSlti rs rt imm s
  | .sltiu rs rt imm => Sys2Proof.Machine.execSltiu rs rt imm s
  | .andi rs rt imm => Sys2Proof.Machine.execAndi rs rt imm s
  | .ori rs rt imm => Sys2Proof.Machine.execOri rs rt imm s
  | .xori rs rt imm => Sys2Proof.Machine.execXori rs rt imm s
  | .lui rt imm => Sys2Proof.Machine.execLui rt imm s
  | .lb base rt off => Sys2Proof.Machine.execLb base rt off s
  | .lh base rt off => Sys2Proof.Machine.execLh base rt off s
  | .lwl base rt off => Sys2Proof.Machine.execLwl base rt off s
  | .lw base rt off => Sys2Proof.Machine.execLw base rt off s
  | .lbu base rt off => Sys2Proof.Machine.execLbu base rt off s
  | .lhu base rt off => Sys2Proof.Machine.execLhu base rt off s
  | .lwr base rt off => Sys2Proof.Machine.execLwr base rt off s
  | .sb base rt off => Sys2Proof.Machine.execSb base rt off s
  | .sh base rt off => Sys2Proof.Machine.execSh base rt off s
  | .swl base rt off => Sys2Proof.Machine.execSwl base rt off s
  | .sw base rt off => Sys2Proof.Machine.execSw base rt off s
  | .swr base rt off => Sys2Proof.Machine.execSwr base rt off s
  | .ll base rt off => Sys2Proof.Machine.execLl base rt off s
  | .sc base rt off => Sys2Proof.Machine.execSc base rt off s
  | .beq rs rt off => Sys2Proof.Machine.execBeq rs rt off s
  | .bne rs rt off => Sys2Proof.Machine.execBne rs rt off s
  | .beql rs rt off => Sys2Proof.Machine.execBeql rs rt off s
  | .bnel rs rt off => Sys2Proof.Machine.execBnel rs rt off s
  | .blez rs off => Sys2Proof.Machine.execBlez rs off s
  | .bgtz rs off => Sys2Proof.Machine.execBgtz rs off s
  | .blezl rs off => Sys2Proof.Machine.execBlezl rs off s
  | .bgtzl rs off => Sys2Proof.Machine.execBgtzl rs off s
  | .bltz rs off => Sys2Proof.Machine.execBltz rs off s
  | .bgez rs off => Sys2Proof.Machine.execBgez rs off s
  | .bltzl rs off => Sys2Proof.Machine.execBltzl rs off s
  | .bgezl rs off => Sys2Proof.Machine.execBgezl rs off s
  | .bltzal rs off => Sys2Proof.Machine.execBltzal rs off s
  | .bgezal rs off => Sys2Proof.Machine.execBgezal rs off s
  | .bltzall rs off => Sys2Proof.Machine.execBltzall rs off s
  | .bgezall rs off => Sys2Proof.Machine.execBgezall rs off s
  | .tgei rs imm => Sys2Proof.Machine.execTgei rs imm s
  | .tgeiu rs imm => Sys2Proof.Machine.execTgeiu rs imm s
  | .tlti rs imm => Sys2Proof.Machine.execTlti rs imm s
  | .tltiu rs imm => Sys2Proof.Machine.execTltiu rs imm s
  | .teqi rs imm => Sys2Proof.Machine.execTeqi rs imm s
  | .tnei rs imm => Sys2Proof.Machine.execTnei rs imm s
  | .j idx => Sys2Proof.Machine.execJ idx s
  | .jal idx => Sys2Proof.Machine.execJal idx s
  | .mfc0 rt rd => Sys2Proof.Machine.execMfc0 rt rd s
  | .mtc0 rt rd => Sys2Proof.Machine.execMtc0 rt rd s
  | .tlbr => Sys2Proof.Machine.execTlbr s
  | .tlbwi => Sys2Proof.Machine.execTlbwi s
  | .tlbwr => Sys2Proof.Machine.execTlbwr s
  | .tlbp => Sys2Proof.Machine.execTlbp s
  | .eret => Sys2Proof.Machine.execEret s
  | .wait code => Sys2Proof.Machine.execWait code s
  | .lwc1 base ft off => Sys2Proof.Machine.execLwc1 base ft off s
  | .ldc1 base ft off => Sys2Proof.Machine.execLdc1 base ft off s
  | .swc1 base ft off => Sys2Proof.Machine.execSwc1 base ft off s
  | .sdc1 base ft off => Sys2Proof.Machine.execSdc1 base ft off s
  | .mfc1 rt fs => Sys2Proof.Machine.execMfc1 rt fs s
  | .cfc1 rt fs => Sys2Proof.Machine.execCfc1 rt fs s
  | .mtc1 rt fs => Sys2Proof.Machine.execMtc1 rt fs s
  | .ctc1 rt fs => Sys2Proof.Machine.execCtc1 rt fs s
  | .bc1f cc off => Sys2Proof.Machine.execBc1f cc off s
  | .bc1fl cc off => Sys2Proof.Machine.execBc1fl cc off s
  | .bc1t cc off => Sys2Proof.Machine.execBc1t cc off s
  | .bc1tl cc off => Sys2Proof.Machine.execBc1tl cc off s
  | .addS ft fs fd => Sys2Proof.Machine.execAddS ft fs fd s
  | .addD ft fs fd => Sys2Proof.Machine.execAddD ft fs fd s
  | .subS ft fs fd => Sys2Proof.Machine.execSubS ft fs fd s
  | .subD ft fs fd => Sys2Proof.Machine.execSubD ft fs fd s
  | .mulS ft fs fd => Sys2Proof.Machine.execMulS ft fs fd s
  | .mulD ft fs fd => Sys2Proof.Machine.execMulD ft fs fd s
  | .divS ft fs fd => Sys2Proof.Machine.execDivS ft fs fd s
  | .divD ft fs fd => Sys2Proof.Machine.execDivD ft fs fd s
  | .sqrtS fs fd => Sys2Proof.Machine.execSqrtS fs fd s
  | .sqrtD fs fd => Sys2Proof.Machine.execSqrtD fs fd s
  | .absS fs fd => Sys2Proof.Machine.execAbsS fs fd s
  | .absD fs fd => Sys2Proof.Machine.execAbsD fs fd s
  | .movS fs fd => Sys2Proof.Machine.execMovS fs fd s
  | .movD fs fd => Sys2Proof.Machine.execMovD fs fd s
  | .negS fs fd => Sys2Proof.Machine.execNegS fs fd s
  | .negD fs fd => Sys2Proof.Machine.execNegD fs fd s
  | .roundWS fs fd => Sys2Proof.Machine.execRoundWS fs fd s
  | .roundWD fs fd => Sys2Proof.Machine.execRoundWD fs fd s
  | .truncWS fs fd => Sys2Proof.Machine.execTruncWS fs fd s
  | .truncWD fs fd => Sys2Proof.Machine.execTruncWD fs fd s
  | .ceilWS fs fd => Sys2Proof.Machine.execCeilWS fs fd s
  | .ceilWD fs fd => Sys2Proof.Machine.execCeilWD fs fd s
  | .floorWS fs fd => Sys2Proof.Machine.execFloorWS fs fd s
  | .floorWD fs fd => Sys2Proof.Machine.execFloorWD fs fd s
  | .cvtWS fs fd => Sys2Proof.Machine.execCvtWS fs fd s
  | .cvtWD fs fd => Sys2Proof.Machine.execCvtWD fs fd s
  | .cvtSD fs fd => Sys2Proof.Machine.execCvtSD fs fd s
  | .cvtSW fs fd => Sys2Proof.Machine.execCvtSW fs fd s
  | .cvtDS fs fd => Sys2Proof.Machine.execCvtDS fs fd s
  | .cvtDW fs fd => Sys2Proof.Machine.execCvtDW fs fd s
  | .movfS cc fs fd => Sys2Proof.Machine.execMovfS cc fs fd s
  | .movfD cc fs fd => Sys2Proof.Machine.execMovfD cc fs fd s
  | .movtS cc fs fd => Sys2Proof.Machine.execMovtS cc fs fd s
  | .movtD cc fs fd => Sys2Proof.Machine.execMovtD cc fs fd s
  | .movzS rt fs fd => Sys2Proof.Machine.execMovzS rt fs fd s
  | .movzD rt fs fd => Sys2Proof.Machine.execMovzD rt fs fd s
  | .movnS rt fs fd => Sys2Proof.Machine.execMovnS rt fs fd s
  | .movnD rt fs fd => Sys2Proof.Machine.execMovnD rt fs fd s
  | .cFS ft fs cc => Sys2Proof.Machine.execCFS ft fs cc s
  | .cFD ft fs cc => Sys2Proof.Machine.execCFD ft fs cc s
  | .cUnS ft fs cc => Sys2Proof.Machine.execCUnS ft fs cc s
  | .cUnD ft fs cc => Sys2Proof.Machine.execCUnD ft fs cc s
  | .cEqS ft fs cc => Sys2Proof.Machine.execCEqS ft fs cc s
  | .cEqD ft fs cc => Sys2Proof.Machine.execCEqD ft fs cc s
  | .cUeqS ft fs cc => Sys2Proof.Machine.execCUeqS ft fs cc s
  | .cUeqD ft fs cc => Sys2Proof.Machine.execCUeqD ft fs cc s
  | .cOltS ft fs cc => Sys2Proof.Machine.execCOltS ft fs cc s
  | .cOltD ft fs cc => Sys2Proof.Machine.execCOltD ft fs cc s
  | .cUltS ft fs cc => Sys2Proof.Machine.execCUltS ft fs cc s
  | .cUltD ft fs cc => Sys2Proof.Machine.execCUltD ft fs cc s
  | .cOleS ft fs cc => Sys2Proof.Machine.execCOleS ft fs cc s
  | .cOleD ft fs cc => Sys2Proof.Machine.execCOleD ft fs cc s
  | .cUleS ft fs cc => Sys2Proof.Machine.execCUleS ft fs cc s
  | .cUleD ft fs cc => Sys2Proof.Machine.execCUleD ft fs cc s
  | .cSfS ft fs cc => Sys2Proof.Machine.execCSfS ft fs cc s
  | .cSfD ft fs cc => Sys2Proof.Machine.execCSfD ft fs cc s
  | .cNgleS ft fs cc => Sys2Proof.Machine.execCNgleS ft fs cc s
  | .cNgleD ft fs cc => Sys2Proof.Machine.execCNgleD ft fs cc s
  | .cSeqS ft fs cc => Sys2Proof.Machine.execCSeqS ft fs cc s
  | .cSeqD ft fs cc => Sys2Proof.Machine.execCSeqD ft fs cc s
  | .cNglS ft fs cc => Sys2Proof.Machine.execCNglS ft fs cc s
  | .cNglD ft fs cc => Sys2Proof.Machine.execCNglD ft fs cc s
  | .cLtS ft fs cc => Sys2Proof.Machine.execCLtS ft fs cc s
  | .cLtD ft fs cc => Sys2Proof.Machine.execCLtD ft fs cc s
  | .cNgeS ft fs cc => Sys2Proof.Machine.execCNgeS ft fs cc s
  | .cNgeD ft fs cc => Sys2Proof.Machine.execCNgeD ft fs cc s
  | .cLeS ft fs cc => Sys2Proof.Machine.execCLeS ft fs cc s
  | .cLeD ft fs cc => Sys2Proof.Machine.execCLeD ft fs cc s
  | .cNgtS ft fs cc => Sys2Proof.Machine.execCNgtS ft fs cc s
  | .cNgtD ft fs cc => Sys2Proof.Machine.execCNgtD ft fs cc s
  | .b off => Sys2Proof.Machine.execB off s
  | .bal off => Sys2Proof.Machine.execBal off s
  | .nop => Sys2Proof.Machine.execNop s
  | .ssnop => Sys2Proof.Machine.execSsnop s

end Sys2Proof.Machine
end

