-- ==== Sys2Proof/Machine/Events.lean ====
section
/-! DEFINITION. What happens at the start of a step, before any instruction: the inputs of the outside world are sampled
(spec/10_state.md R20, R58), a reset input is obeyed (spec/60_exceptions.md R357), a core stopped by WAIT stays stopped
or wakes (R364), and an interrupt is taken (R361). -/
namespace Sys2Proof.Machine

/-- No input: what an exhausted script stands for (log 11). -/
def EnvStep.quiet : EnvStep := ⟨0, .none, []⟩

/-- The inputs of this step. -/
def State.input (s : State) : EnvStep := s.env.headD EnvStep.quiet

/-- The counter moves on; it asks for an interrupt when it equals Compare, also where MTC0 or reset made them equal, or
passes it in this step (spec/60_exceptions.md R368, log 33). -/
def State.tick (s : State) : State :=
  if s.cfg.hasTimer then
    let ahead := (s.cp0.compare - s.cp0.count).toNat
    { s with cp0 := { s.cp0 with
        count := s.cp0.count + BitVec.ofNat 32 s.cfg.countRate
        timerRequest := s.cp0.timerRequest || decide (ahead ≤ s.cfg.countRate) } }
  else s

/-- Cause.IP7..IP2 reflect the interrupt lines, IP7 also the timer's request (spec/60_exceptions.md R360, R368). -/
def State.sampleLines (s : State) (irq : BitVec 6) : State :=
  let timer := s.cfg.hasTimer && s.cp0.timerRequest
  let lines := irq ||| (if timer then 0x20#6 else 0#6)
  { s with cp0 := { s.cp0 with cause := blend 0xFC00 (lines.setWidth 32 <<< 10) s.cp0.cause } }

/-- A byte another agent writes coherently: a link on its block is lost (spec/20_memory.md R84(a)). -/
def State.outsideWrite (s : State) (c : Host.Cell) : State :=
  if c.1 < 2 ^ s.cfg.psize then
    { s.setByte c.1 c.2 with llBit := s.llBit && !s.inLinkedBlock c.1 }
  else s

/-- The step's inputs are consumed: the script and the draw counter move on, writes arrive, the counter ticks, the lines
are sampled. -/
def State.sample (s : State) : State :=
  let e := s.input
  let t := { s with env := s.env.tail, draws := s.draws + 1 }
  ((e.writes.foldl State.outsideWrite t).tick).sampleLines e.irq

/-- Reset: the state of spec/10_state.md R59, with the PC it interrupted in ErrorEPC (R45); the parameters and the
model's own fields go on. -/
def State.coldReset (s : State) : State :=
  let r := State.resetWith s.cfg s.tlbEntries
  { r with env := s.env, draws := s.draws, cp0 := { r.cp0 with errorEpc := s.pc } }

/-- Soft reset (Status bit 20, SR) and NMI (bit 19): spec/60_exceptions.md R357. A stopped core wakes (R277). R357 names pc
alone and keeps all other state; that npc follows (RESET_PC + 4) and that the delay slot is left is the model's reading:
DEDUCED (log 34). -/
def State.warmReset (s : State) (bit : Nat) : State :=
  { s with
    cp0 := { s.cp0 with
      errorEpc := s.restartAddress
      status := putBit (putBit (putBit s.cp0.status 2 true) 22 true) bit true }
    pc := s.cfg.resetPc
    npc := s.cfg.resetPc + 4
    inDelaySlot := false
    waiting := false }

/-- (Cause.IP and Status.IM) is not zero. -/
def Cp0.pending (c : Cp0) : Bool := decide (c.ip &&& c.im ≠ 0)

/-- An interrupt is to be taken (spec/60_exceptions.md R361). -/
def Cp0.interruptTaken (c : Cp0) : Bool := c.ie && !c.exl && !c.erl && c.pending

/-- What a step starts with: it is over, or an instruction is to run. -/
inductive Begun where
  /-- The step is over: reset, still waiting, or an interrupt taken. -/
  | done (s : State)
  /-- An instruction runs in this state. -/
  | run (s : State)
deriving DecidableEq, Repr

/-- A sampled state without a reset input: wait on, take the interrupt, or run (spec/47_cp0.md R277,
spec/60_exceptions.md R361, R364). -/
def State.beginSampled (t : State) : Begun :=
  if t.waiting && !t.cp0.pending then .done t
  else if t.cp0.interruptTaken then .done (State.raise { t with waiting := false } .interrupt)
  else .run { t with waiting := false }

/-- The start of a step, by the priorities of spec/60_exceptions.md R353: reset, soft reset, NMI, interrupt, then the
instruction. -/
def State.begin (s : State) : Begun :=
  match s.input.event with
  | .none => s.sample.beginSampled
  | .reset => .done s.sample.coldReset
  | .softReset => .done (s.sample.warmReset 20)
  | .nmi => .done (s.sample.warmReset 19)

end Sys2Proof.Machine
end

