-- ==== Sys2Proof/WellFormed.lean ====
section
/-! DEFINITION. Which terms of Instr are well formed: the ones decoding can produce. Every field is a bit vector of its
width, so no field can be out of range; the four assembler idioms are not instructions of their own
(spec/30_encoding.md R125: decode yields BEQ, BGEZAL, SLL), so a decoded instruction is never one of them. -/
namespace Sys2Proof

/-- An assembler idiom of spec/30_encoding.md R125: another name of a core instruction's word. -/
def Instr.isIdiom : Instr → Bool
  | .b _ => true
  | .bal _ => true
  | .nop => true
  | .ssnop => true
  | _ => false

/-- The core instruction an idiom stands for (spec/30_encoding.md R124, R125); every other instruction is itself. -/
def Instr.canonical : Instr → Instr
  | .b off => .beq 0 0 off
  | .bal off => .bgezal 0 off
  | .nop => .sll 0 0 0
  | .ssnop => .sll 0 0 1
  | i => i

/-- A well-formed instruction: one that decoding yields. -/
def Instr.WellFormed (i : Instr) : Bool := !i.isIdiom

end Sys2Proof
end

