-- ==== Sys2Proof/Decode.lean ====
section
/-! DEFINITION. From words to instructions and back. Decoding follows spec/30_encoding.md R108 step by step: the primary
opcode (R109), then funct of SPECIAL (R110) and SPECIAL2 (R111), the rt field of REGIMM (R112), the rs field of COP0
(R113) and COP1 (R114), then the FPU funct (R115, R116); last the must-be-zero fields (R121). It is total: a word that
matches no row of the table is rejected by name (R127). After it the encoder, written from the same figures. -/
namespace Sys2Proof

/-! ## Fields of a word (spec/30_encoding.md R101, R103, R106) -/

/-- Bits 31..26, the primary opcode. -/
def opOf (w : Word) : BitVec 6 := w.extractLsb' 26 6
/-- Bits 25..21: rs, base, fmt or sub. -/
def rsOf (w : Word) : Reg := w.extractLsb' 21 5
/-- Bits 20..16: rt, ft, the REGIMM sub-opcode, or cc with nd and tf. -/
def rtOf (w : Word) : Reg := w.extractLsb' 16 5
/-- Bits 15..11: rd or fs. -/
def rdOf (w : Word) : Reg := w.extractLsb' 11 5
/-- Bits 10..6: sa, stype or fd. -/
def saOf (w : Word) : BitVec 5 := w.extractLsb' 6 5
/-- Bits 5..0: funct. -/
def functOf (w : Word) : BitVec 6 := w.extractLsb' 0 6
/-- Bits 15..0: immediate or offset. -/
def immOf (w : Word) : Half := w.extractLsb' 0 16
/-- Bits 25..0: instr_index. -/
def idxOf (w : Word) : BitVec 26 := w.extractLsb' 0 26
/-- Bits 25..6: the code of SYSCALL and BREAK. -/
def code20Of (w : Word) : BitVec 20 := w.extractLsb' 6 20
/-- Bits 15..6: the code of the register traps. -/
def code10Of (w : Word) : BitVec 10 := w.extractLsb' 6 10
/-- Bits 24..6: the code of WAIT, zero for the other CO instructions. -/
def code19Of (w : Word) : BitVec 19 := w.extractLsb' 6 19
/-- cc of a branch or a move, the upper three bits of its rt field (bits 20..18 of the word). -/
def ccOf (f : Reg) : Cc := f.extractLsb' 2 3
/-- The two bits below cc: nd and tf of a branch (R117), 0 and tf of a move (R118). -/
def selOf (f : Reg) : BitVec 2 := f.extractLsb' 0 2
/-- cc of a compare, the upper three bits of its sa field (bits 10..8 of the word). -/
def ccCmpOf (f : BitVec 5) : Cc := f.extractLsb' 2 3

/-- Why a word is no instruction (spec/30_encoding.md R127); each names the table that has no row for it. -/
inductive DecodeError where
  /-- No row for the primary opcode (R109). -/
  | reservedOpcode (op : BitVec 6)
  /-- No row for the funct of SPECIAL (R110). -/
  | reservedSpecial (funct : BitVec 6)
  /-- No row for the funct of SPECIAL2 (R111). -/
  | reservedSpecial2 (funct : BitVec 6)
  /-- No row for the sub-opcode of REGIMM (R112). -/
  | reservedRegimm (sub : BitVec 5)
  /-- No row for the sub-code or funct of COP0 (R113). -/
  | reservedCop0 (sub : BitVec 5) (funct : BitVec 6)
  /-- No row for the sub-code of COP1 (R114). -/
  | reservedCop1 (sub : BitVec 5)
  /-- No row for the funct of a COP1 format (R115, R116). -/
  | reservedFpu (fmt : BitVec 5) (funct : BitVec 6)
  /-- An opcode of coprocessor 2 or 3 (R127). -/
  | reservedUnit (op : BitVec 6)
  /-- A must-be-zero field that is not zero (R121). -/
  | mustBeZero
  /-- Fewer than four bytes. -/
  | truncated
deriving DecidableEq, Repr

/-- The instruction, if its must-be-zero fields are zero (spec/30_encoding.md R121). -/
def whenZero (z : Bool) (i : Instr) : Except DecodeError Instr :=
  if z then .ok i else .error .mustBeZero

/-! ## The tables -/

/-- The SPECIAL function map (spec/30_encoding.md R110). -/
def decodeSpecial (w : Word) : Except DecodeError Instr :=
  match (functOf w).toNat with
  | 0 => whenZero (rsOf w = 0) (.sll (rtOf w) (rdOf w) (saOf w))
  | 2 => whenZero (rsOf w = 0) (.srl (rtOf w) (rdOf w) (saOf w))
  | 3 => whenZero (rsOf w = 0) (.sra (rtOf w) (rdOf w) (saOf w))
  | 4 => whenZero (saOf w = 0) (.sllv (rsOf w) (rtOf w) (rdOf w))
  | 6 => whenZero (saOf w = 0) (.srlv (rsOf w) (rtOf w) (rdOf w))
  | 7 => whenZero (saOf w = 0) (.srav (rsOf w) (rtOf w) (rdOf w))
  | 8 => whenZero (rtOf w = 0 && rdOf w = 0 && saOf w = 0) (.jr (rsOf w))
  | 9 => whenZero (rtOf w = 0 && saOf w = 0) (.jalr (rsOf w) (rdOf w))
  | 10 => whenZero (saOf w = 0) (.movz (rsOf w) (rtOf w) (rdOf w))
  | 11 => whenZero (saOf w = 0) (.movn (rsOf w) (rtOf w) (rdOf w))
  | 12 => .ok (.syscall (code20Of w))
  | 13 => .ok (.brk (code20Of w))
  | 15 => whenZero (rsOf w = 0 && rtOf w = 0 && rdOf w = 0) (.sync (saOf w))
  | 16 => whenZero (rsOf w = 0 && rtOf w = 0 && saOf w = 0) (.mfhi (rdOf w))
  | 17 => whenZero (rtOf w = 0 && rdOf w = 0 && saOf w = 0) (.mthi (rsOf w))
  | 18 => whenZero (rsOf w = 0 && rtOf w = 0 && saOf w = 0) (.mflo (rdOf w))
  | 19 => whenZero (rtOf w = 0 && rdOf w = 0 && saOf w = 0) (.mtlo (rsOf w))
  | 24 => whenZero (rdOf w = 0 && saOf w = 0) (.mult (rsOf w) (rtOf w))
  | 25 => whenZero (rdOf w = 0 && saOf w = 0) (.multu (rsOf w) (rtOf w))
  | 26 => whenZero (rdOf w = 0 && saOf w = 0) (.div (rsOf w) (rtOf w))
  | 27 => whenZero (rdOf w = 0 && saOf w = 0) (.divu (rsOf w) (rtOf w))
  | 32 => whenZero (saOf w = 0) (.add (rsOf w) (rtOf w) (rdOf w))
  | 33 => whenZero (saOf w = 0) (.addu (rsOf w) (rtOf w) (rdOf w))
  | 34 => whenZero (saOf w = 0) (.sub (rsOf w) (rtOf w) (rdOf w))
  | 35 => whenZero (saOf w = 0) (.subu (rsOf w) (rtOf w) (rdOf w))
  | 36 => whenZero (saOf w = 0) (.and (rsOf w) (rtOf w) (rdOf w))
  | 37 => whenZero (saOf w = 0) (.or (rsOf w) (rtOf w) (rdOf w))
  | 38 => whenZero (saOf w = 0) (.xor (rsOf w) (rtOf w) (rdOf w))
  | 39 => whenZero (saOf w = 0) (.nor (rsOf w) (rtOf w) (rdOf w))
  | 42 => whenZero (saOf w = 0) (.slt (rsOf w) (rtOf w) (rdOf w))
  | 43 => whenZero (saOf w = 0) (.sltu (rsOf w) (rtOf w) (rdOf w))
  | 48 => .ok (.tge (rsOf w) (rtOf w) (code10Of w))
  | 49 => .ok (.tgeu (rsOf w) (rtOf w) (code10Of w))
  | 50 => .ok (.tlt (rsOf w) (rtOf w) (code10Of w))
  | 51 => .ok (.tltu (rsOf w) (rtOf w) (code10Of w))
  | 52 => .ok (.teq (rsOf w) (rtOf w) (code10Of w))
  | 54 => .ok (.tne (rsOf w) (rtOf w) (code10Of w))
  | _ => .error (.reservedSpecial (functOf w))

/-- The SPECIAL2 function map (spec/30_encoding.md R111). -/
def decodeSpecial2 (w : Word) : Except DecodeError Instr :=
  match (functOf w).toNat with
  | 0 => whenZero (rdOf w = 0 && saOf w = 0) (.madd (rsOf w) (rtOf w))
  | 1 => whenZero (rdOf w = 0 && saOf w = 0) (.maddu (rsOf w) (rtOf w))
  | 2 => whenZero (saOf w = 0) (.mul (rsOf w) (rtOf w) (rdOf w))
  | 4 => whenZero (rdOf w = 0 && saOf w = 0) (.msub (rsOf w) (rtOf w))
  | 5 => whenZero (rdOf w = 0 && saOf w = 0) (.msubu (rsOf w) (rtOf w))
  | 32 => whenZero (saOf w = 0) (.clz (rsOf w) (rtOf w) (rdOf w))
  | 33 => whenZero (saOf w = 0) (.clo (rsOf w) (rtOf w) (rdOf w))
  | _ => .error (.reservedSpecial2 (functOf w))

/-- The REGIMM map (spec/30_encoding.md R112). -/
def decodeRegimm (w : Word) : Except DecodeError Instr :=
  match (rtOf w).toNat with
  | 0 => .ok (.bltz (rsOf w) (immOf w))
  | 1 => .ok (.bgez (rsOf w) (immOf w))
  | 2 => .ok (.bltzl (rsOf w) (immOf w))
  | 3 => .ok (.bgezl (rsOf w) (immOf w))
  | 8 => .ok (.tgei (rsOf w) (immOf w))
  | 9 => .ok (.tgeiu (rsOf w) (immOf w))
  | 10 => .ok (.tlti (rsOf w) (immOf w))
  | 11 => .ok (.tltiu (rsOf w) (immOf w))
  | 12 => .ok (.teqi (rsOf w) (immOf w))
  | 14 => .ok (.tnei (rsOf w) (immOf w))
  | 16 => .ok (.bltzal (rsOf w) (immOf w))
  | 17 => .ok (.bgezal (rsOf w) (immOf w))
  | 18 => .ok (.bltzall (rsOf w) (immOf w))
  | 19 => .ok (.bgezall (rsOf w) (immOf w))
  | _ => .error (.reservedRegimm (rtOf w))

/-- The COP0 functions with CO = 1 (spec/30_encoding.md R113, R120); only WAIT has a code that may be non-zero. -/
def decodeCo (w : Word) : Except DecodeError Instr :=
  match (functOf w).toNat with
  | 1 => whenZero (code19Of w = 0) .tlbr
  | 2 => whenZero (code19Of w = 0) .tlbwi
  | 6 => whenZero (code19Of w = 0) .tlbwr
  | 8 => whenZero (code19Of w = 0) .tlbp
  | 24 => whenZero (code19Of w = 0) .eret
  | 32 => .ok (.wait (code19Of w))
  | _ => .error (.reservedCop0 (rsOf w) (functOf w))

/-- COP0 (spec/30_encoding.md R113). -/
def decodeCop0 (w : Word) : Except DecodeError Instr :=
  if w.getLsbD 25 then decodeCo w
  else match (rsOf w).toNat with
    | 0 => whenZero (w.extractLsb' 0 11 = 0) (.mfc0 (rtOf w) (rdOf w))
    | 4 => whenZero (w.extractLsb' 0 11 = 0) (.mtc0 (rtOf w) (rdOf w))
    | _ => .error (.reservedCop0 (rsOf w) (functOf w))

/-- BC1F, BC1T, BC1FL, BC1TL by nd and tf (spec/30_encoding.md R117). -/
def decodeBc1 (w : Word) : Except DecodeError Instr :=
  match (selOf (rtOf w)).toNat with
  | 0 => .ok (.bc1f (ccOf (rtOf w)) (immOf w))
  | 1 => .ok (.bc1t (ccOf (rtOf w)) (immOf w))
  | 2 => .ok (.bc1fl (ccOf (rtOf w)) (immOf w))
  | _ => .ok (.bc1tl (ccOf (rtOf w)) (immOf w))

/-- The COP1 function map for fmt = S (spec/30_encoding.md R115, R116, R118). -/
def decodeFmtS (w : Word) : Except DecodeError Instr :=
  match (functOf w).toNat with
  | 0 => .ok (.addS (rtOf w) (rdOf w) (saOf w))
  | 1 => .ok (.subS (rtOf w) (rdOf w) (saOf w))
  | 2 => .ok (.mulS (rtOf w) (rdOf w) (saOf w))
  | 3 => .ok (.divS (rtOf w) (rdOf w) (saOf w))
  | 4 => whenZero (rtOf w = 0) (.sqrtS (rdOf w) (saOf w))
  | 5 => whenZero (rtOf w = 0) (.absS (rdOf w) (saOf w))
  | 6 => whenZero (rtOf w = 0) (.movS (rdOf w) (saOf w))
  | 7 => whenZero (rtOf w = 0) (.negS (rdOf w) (saOf w))
  | 12 => whenZero (rtOf w = 0) (.roundWS (rdOf w) (saOf w))
  | 13 => whenZero (rtOf w = 0) (.truncWS (rdOf w) (saOf w))
  | 14 => whenZero (rtOf w = 0) (.ceilWS (rdOf w) (saOf w))
  | 15 => whenZero (rtOf w = 0) (.floorWS (rdOf w) (saOf w))
  | 17 => match (selOf (rtOf w)).toNat with
    | 0 => .ok (.movfS (ccOf (rtOf w)) (rdOf w) (saOf w))
    | 1 => .ok (.movtS (ccOf (rtOf w)) (rdOf w) (saOf w))
    | _ => .error .mustBeZero
  | 18 => .ok (.movzS (rtOf w) (rdOf w) (saOf w))
  | 19 => .ok (.movnS (rtOf w) (rdOf w) (saOf w))
  | 33 => whenZero (rtOf w = 0) (.cvtDS (rdOf w) (saOf w))
  | 36 => whenZero (rtOf w = 0) (.cvtWS (rdOf w) (saOf w))
  | 48 => whenZero (selOf (saOf w) = 0) (.cFS (rtOf w) (rdOf w) (ccCmpOf (saOf w)))
  | 49 => whenZero (selOf (saOf w) = 0) (.cUnS (rtOf w) (rdOf w) (ccCmpOf (saOf w)))
  | 50 => whenZero (selOf (saOf w) = 0) (.cEqS (rtOf w) (rdOf w) (ccCmpOf (saOf w)))
  | 51 => whenZero (selOf (saOf w) = 0) (.cUeqS (rtOf w) (rdOf w) (ccCmpOf (saOf w)))
  | 52 => whenZero (selOf (saOf w) = 0) (.cOltS (rtOf w) (rdOf w) (ccCmpOf (saOf w)))
  | 53 => whenZero (selOf (saOf w) = 0) (.cUltS (rtOf w) (rdOf w) (ccCmpOf (saOf w)))
  | 54 => whenZero (selOf (saOf w) = 0) (.cOleS (rtOf w) (rdOf w) (ccCmpOf (saOf w)))
  | 55 => whenZero (selOf (saOf w) = 0) (.cUleS (rtOf w) (rdOf w) (ccCmpOf (saOf w)))
  | 56 => whenZero (selOf (saOf w) = 0) (.cSfS (rtOf w) (rdOf w) (ccCmpOf (saOf w)))
  | 57 => whenZero (selOf (saOf w) = 0) (.cNgleS (rtOf w) (rdOf w) (ccCmpOf (saOf w)))
  | 58 => whenZero (selOf (saOf w) = 0) (.cSeqS (rtOf w) (rdOf w) (ccCmpOf (saOf w)))
  | 59 => whenZero (selOf (saOf w) = 0) (.cNglS (rtOf w) (rdOf w) (ccCmpOf (saOf w)))
  | 60 => whenZero (selOf (saOf w) = 0) (.cLtS (rtOf w) (rdOf w) (ccCmpOf (saOf w)))
  | 61 => whenZero (selOf (saOf w) = 0) (.cNgeS (rtOf w) (rdOf w) (ccCmpOf (saOf w)))
  | 62 => whenZero (selOf (saOf w) = 0) (.cLeS (rtOf w) (rdOf w) (ccCmpOf (saOf w)))
  | 63 => whenZero (selOf (saOf w) = 0) (.cNgtS (rtOf w) (rdOf w) (ccCmpOf (saOf w)))
  | _ => .error (.reservedFpu (rsOf w) (functOf w))

/-- The COP1 function map for fmt = D (spec/30_encoding.md R115, R116, R118). -/
def decodeFmtD (w : Word) : Except DecodeError Instr :=
  match (functOf w).toNat with
  | 0 => .ok (.addD (rtOf w) (rdOf w) (saOf w))
  | 1 => .ok (.subD (rtOf w) (rdOf w) (saOf w))
  | 2 => .ok (.mulD (rtOf w) (rdOf w) (saOf w))
  | 3 => .ok (.divD (rtOf w) (rdOf w) (saOf w))
  | 4 => whenZero (rtOf w = 0) (.sqrtD (rdOf w) (saOf w))
  | 5 => whenZero (rtOf w = 0) (.absD (rdOf w) (saOf w))
  | 6 => whenZero (rtOf w = 0) (.movD (rdOf w) (saOf w))
  | 7 => whenZero (rtOf w = 0) (.negD (rdOf w) (saOf w))
  | 12 => whenZero (rtOf w = 0) (.roundWD (rdOf w) (saOf w))
  | 13 => whenZero (rtOf w = 0) (.truncWD (rdOf w) (saOf w))
  | 14 => whenZero (rtOf w = 0) (.ceilWD (rdOf w) (saOf w))
  | 15 => whenZero (rtOf w = 0) (.floorWD (rdOf w) (saOf w))
  | 17 => match (selOf (rtOf w)).toNat with
    | 0 => .ok (.movfD (ccOf (rtOf w)) (rdOf w) (saOf w))
    | 1 => .ok (.movtD (ccOf (rtOf w)) (rdOf w) (saOf w))
    | _ => .error .mustBeZero
  | 18 => .ok (.movzD (rtOf w) (rdOf w) (saOf w))
  | 19 => .ok (.movnD (rtOf w) (rdOf w) (saOf w))
  | 32 => whenZero (rtOf w = 0) (.cvtSD (rdOf w) (saOf w))
  | 36 => whenZero (rtOf w = 0) (.cvtWD (rdOf w) (saOf w))
  | 48 => whenZero (selOf (saOf w) = 0) (.cFD (rtOf w) (rdOf w) (ccCmpOf (saOf w)))
  | 49 => whenZero (selOf (saOf w) = 0) (.cUnD (rtOf w) (rdOf w) (ccCmpOf (saOf w)))
  | 50 => whenZero (selOf (saOf w) = 0) (.cEqD (rtOf w) (rdOf w) (ccCmpOf (saOf w)))
  | 51 => whenZero (selOf (saOf w) = 0) (.cUeqD (rtOf w) (rdOf w) (ccCmpOf (saOf w)))
  | 52 => whenZero (selOf (saOf w) = 0) (.cOltD (rtOf w) (rdOf w) (ccCmpOf (saOf w)))
  | 53 => whenZero (selOf (saOf w) = 0) (.cUltD (rtOf w) (rdOf w) (ccCmpOf (saOf w)))
  | 54 => whenZero (selOf (saOf w) = 0) (.cOleD (rtOf w) (rdOf w) (ccCmpOf (saOf w)))
  | 55 => whenZero (selOf (saOf w) = 0) (.cUleD (rtOf w) (rdOf w) (ccCmpOf (saOf w)))
  | 56 => whenZero (selOf (saOf w) = 0) (.cSfD (rtOf w) (rdOf w) (ccCmpOf (saOf w)))
  | 57 => whenZero (selOf (saOf w) = 0) (.cNgleD (rtOf w) (rdOf w) (ccCmpOf (saOf w)))
  | 58 => whenZero (selOf (saOf w) = 0) (.cSeqD (rtOf w) (rdOf w) (ccCmpOf (saOf w)))
  | 59 => whenZero (selOf (saOf w) = 0) (.cNglD (rtOf w) (rdOf w) (ccCmpOf (saOf w)))
  | 60 => whenZero (selOf (saOf w) = 0) (.cLtD (rtOf w) (rdOf w) (ccCmpOf (saOf w)))
  | 61 => whenZero (selOf (saOf w) = 0) (.cNgeD (rtOf w) (rdOf w) (ccCmpOf (saOf w)))
  | 62 => whenZero (selOf (saOf w) = 0) (.cLeD (rtOf w) (rdOf w) (ccCmpOf (saOf w)))
  | 63 => whenZero (selOf (saOf w) = 0) (.cNgtD (rtOf w) (rdOf w) (ccCmpOf (saOf w)))
  | _ => .error (.reservedFpu (rsOf w) (functOf w))

/-- The COP1 function map for fmt = W (spec/30_encoding.md R115, R116, R118). -/
def decodeFmtW (w : Word) : Except DecodeError Instr :=
  match (functOf w).toNat with
  | 32 => whenZero (rtOf w = 0) (.cvtSW (rdOf w) (saOf w))
  | 33 => whenZero (rtOf w = 0) (.cvtDW (rdOf w) (saOf w))
  | _ => .error (.reservedFpu (rsOf w) (functOf w))

/-- COP1 by its sub-code or fmt (spec/30_encoding.md R114, R107). -/
def decodeCop1 (w : Word) : Except DecodeError Instr :=
  match (rsOf w).toNat with
  | 0 => whenZero (w.extractLsb' 0 11 = 0) (.mfc1 (rtOf w) (rdOf w))
  | 2 => whenZero (w.extractLsb' 0 11 = 0) (.cfc1 (rtOf w) (rdOf w))
  | 4 => whenZero (w.extractLsb' 0 11 = 0) (.mtc1 (rtOf w) (rdOf w))
  | 6 => whenZero (w.extractLsb' 0 11 = 0) (.ctc1 (rtOf w) (rdOf w))
  | 8 => decodeBc1 w
  | 16 => decodeFmtS w
  | 17 => decodeFmtD w
  | 20 => decodeFmtW w
  | _ => .error (.reservedCop1 (rsOf w))

/-- The instruction a word is, or the reason it is none (spec/30_encoding.md R108, R109). -/
def decode (w : Word) : Except DecodeError Instr :=
  match (opOf w).toNat with
  | 0 => decodeSpecial w
  | 1 => decodeRegimm w
  | 2 => .ok (.j (idxOf w))
  | 3 => .ok (.jal (idxOf w))
  | 4 => .ok (.beq (rsOf w) (rtOf w) (immOf w))
  | 5 => .ok (.bne (rsOf w) (rtOf w) (immOf w))
  | 6 => whenZero (rtOf w = 0) (.blez (rsOf w) (immOf w))
  | 7 => whenZero (rtOf w = 0) (.bgtz (rsOf w) (immOf w))
  | 8 => .ok (.addi (rsOf w) (rtOf w) (immOf w))
  | 9 => .ok (.addiu (rsOf w) (rtOf w) (immOf w))
  | 10 => .ok (.slti (rsOf w) (rtOf w) (immOf w))
  | 11 => .ok (.sltiu (rsOf w) (rtOf w) (immOf w))
  | 12 => .ok (.andi (rsOf w) (rtOf w) (immOf w))
  | 13 => .ok (.ori (rsOf w) (rtOf w) (immOf w))
  | 14 => .ok (.xori (rsOf w) (rtOf w) (immOf w))
  | 15 => whenZero (rsOf w = 0) (.lui (rtOf w) (immOf w))
  | 16 => decodeCop0 w
  | 17 => decodeCop1 w
  | 18 => .error (.reservedUnit (opOf w))
  | 19 => .error (.reservedUnit (opOf w))
  | 20 => .ok (.beql (rsOf w) (rtOf w) (immOf w))
  | 21 => .ok (.bnel (rsOf w) (rtOf w) (immOf w))
  | 22 => whenZero (rtOf w = 0) (.blezl (rsOf w) (immOf w))
  | 23 => whenZero (rtOf w = 0) (.bgtzl (rsOf w) (immOf w))
  | 28 => decodeSpecial2 w
  | 32 => .ok (.lb (rsOf w) (rtOf w) (immOf w))
  | 33 => .ok (.lh (rsOf w) (rtOf w) (immOf w))
  | 34 => .ok (.lwl (rsOf w) (rtOf w) (immOf w))
  | 35 => .ok (.lw (rsOf w) (rtOf w) (immOf w))
  | 36 => .ok (.lbu (rsOf w) (rtOf w) (immOf w))
  | 37 => .ok (.lhu (rsOf w) (rtOf w) (immOf w))
  | 38 => .ok (.lwr (rsOf w) (rtOf w) (immOf w))
  | 40 => .ok (.sb (rsOf w) (rtOf w) (immOf w))
  | 41 => .ok (.sh (rsOf w) (rtOf w) (immOf w))
  | 42 => .ok (.swl (rsOf w) (rtOf w) (immOf w))
  | 43 => .ok (.sw (rsOf w) (rtOf w) (immOf w))
  | 46 => .ok (.swr (rsOf w) (rtOf w) (immOf w))
  | 48 => .ok (.ll (rsOf w) (rtOf w) (immOf w))
  | 49 => .ok (.lwc1 (rsOf w) (rtOf w) (immOf w))
  | 53 => .ok (.ldc1 (rsOf w) (rtOf w) (immOf w))
  | 56 => .ok (.sc (rsOf w) (rtOf w) (immOf w))
  | 57 => .ok (.swc1 (rsOf w) (rtOf w) (immOf w))
  | 61 => .ok (.sdc1 (rsOf w) (rtOf w) (immOf w))
  | _ => .error (.reservedOpcode (opOf w))

/-! ## Bytes (spec/30_encoding.md R100) -/

/-- The word whose byte at the lowest address is b0 (spec/20_memory.md R63, R75). -/
def wordOfBytes (big : Bool) (b0 b1 b2 b3 : Byte) : Word :=
  if big then b0 ++ b1 ++ b2 ++ b3 else b3 ++ b2 ++ b1 ++ b0

/-- The bytes of a word in memory order, the lowest address first. -/
def bytesOfWord (big : Bool) (w : Word) : List Byte :=
  let l := [w.extractLsb' 24 8, w.extractLsb' 16 8, w.extractLsb' 8 8, w.extractLsb' 0 8]
  if big then l else l.reverse

/-- Decoding a run of bytes in memory: the instruction and the bytes after it. -/
def decodeBytes (big : Bool) : List Byte → Except DecodeError (Instr × List Byte)
  | b0 :: b1 :: b2 :: b3 :: rest => (decode (wordOfBytes big b0 b1 b2 b3)).map (·, rest)
  | _ => .error .truncated

/-! ## Encoding -/

/-- The R-Type word (spec/30_encoding.md R101). -/
def wordR (op : BitVec 6) (rs rt rd sa : BitVec 5) (funct : BitVec 6) : Word := op ++ rs ++ rt ++ rd ++ sa ++ funct
/-- The I-Type word (spec/30_encoding.md R101). -/
def wordI (op : BitVec 6) (rs rt : BitVec 5) (imm : Half) : Word := op ++ rs ++ rt ++ imm
/-- The J-Type word (spec/30_encoding.md R101). -/
def wordJ (op : BitVec 6) (idx : BitVec 26) : Word := op ++ idx
/-- The code-20 word of SYSCALL and BREAK (spec/30_encoding.md R103). -/
def wordCode20 (code : BitVec 20) (funct : BitVec 6) : Word := 0#6 ++ code ++ funct
/-- The code-10 word of the register traps (spec/30_encoding.md R103). -/
def wordCode10 (rs rt : BitVec 5) (code : BitVec 10) (funct : BitVec 6) : Word := 0#6 ++ rs ++ rt ++ code ++ funct
/-- The COP0 word with CO = 1 (spec/30_encoding.md R103). -/
def wordCo (code : BitVec 19) (funct : BitVec 6) : Word := 16#6 ++ 1#1 ++ code ++ funct
/-- cc, nd and tf as the rt field of a branch or a move (spec/30_encoding.md R106). -/
def ccField (cc : Cc) (sel : BitVec 2) : BitVec 5 := cc ++ sel
/-- cc and two zeros as the sa field of a compare (spec/30_encoding.md R116). -/
def ccCmpField (cc : Cc) : BitVec 5 := cc ++ 0#2

/-- The word of an instruction (spec/30_encoding.md R101 to R120, and each instruction's own figure). -/
def encode : Instr → Word
  | .add rs rt rd => wordR 0 rs rt rd 0 32
  | .addu rs rt rd => wordR 0 rs rt rd 0 33
  | .sub rs rt rd => wordR 0 rs rt rd 0 34
  | .subu rs rt rd => wordR 0 rs rt rd 0 35
  | .and rs rt rd => wordR 0 rs rt rd 0 36
  | .or rs rt rd => wordR 0 rs rt rd 0 37
  | .xor rs rt rd => wordR 0 rs rt rd 0 38
  | .nor rs rt rd => wordR 0 rs rt rd 0 39
  | .slt rs rt rd => wordR 0 rs rt rd 0 42
  | .sltu rs rt rd => wordR 0 rs rt rd 0 43
  | .movn rs rt rd => wordR 0 rs rt rd 0 11
  | .movz rs rt rd => wordR 0 rs rt rd 0 10
  | .sllv rs rt rd => wordR 0 rs rt rd 0 4
  | .srlv rs rt rd => wordR 0 rs rt rd 0 6
  | .srav rs rt rd => wordR 0 rs rt rd 0 7
  | .sll rt rd sa => wordR 0 0 rt rd sa 0
  | .srl rt rd sa => wordR 0 0 rt rd sa 2
  | .sra rt rd sa => wordR 0 0 rt rd sa 3
  | .mult rs rt => wordR 0 rs rt 0 0 24
  | .multu rs rt => wordR 0 rs rt 0 0 25
  | .div rs rt => wordR 0 rs rt 0 0 26
  | .divu rs rt => wordR 0 rs rt 0 0 27
  | .mfhi rd => wordR 0 0 0 rd 0 16
  | .mflo rd => wordR 0 0 0 rd 0 18
  | .mthi rs => wordR 0 rs 0 0 0 17
  | .mtlo rs => wordR 0 rs 0 0 0 19
  | .madd rs rt => wordR 28 rs rt 0 0 0
  | .maddu rs rt => wordR 28 rs rt 0 0 1
  | .msub rs rt => wordR 28 rs rt 0 0 4
  | .msubu rs rt => wordR 28 rs rt 0 0 5
  | .mul rs rt rd => wordR 28 rs rt rd 0 2
  | .clz rs rt rd => wordR 28 rs rt rd 0 32
  | .clo rs rt rd => wordR 28 rs rt rd 0 33
  | .jr rs => wordR 0 rs 0 0 0 8
  | .jalr rs rd => wordR 0 rs 0 rd 0 9
  | .syscall code => wordCode20 code 12
  | .brk code => wordCode20 code 13
  | .sync stype => wordR 0 0 0 0 stype 15
  | .tge rs rt code => wordCode10 rs rt code 48
  | .tgeu rs rt code => wordCode10 rs rt code 49
  | .tlt rs rt code => wordCode10 rs rt code 50
  | .tltu rs rt code => wordCode10 rs rt code 51
  | .teq rs rt code => wordCode10 rs rt code 52
  | .tne rs rt code => wordCode10 rs rt code 54
  | .addi rs rt imm => wordI 8 rs rt imm
  | .addiu rs rt imm => wordI 9 rs rt imm
  | .slti rs rt imm => wordI 10 rs rt imm
  | .sltiu rs rt imm => wordI 11 rs rt imm
  | .andi rs rt imm => wordI 12 rs rt imm
  | .ori rs rt imm => wordI 13 rs rt imm
  | .xori rs rt imm => wordI 14 rs rt imm
  | .lui rt imm => wordI 15 0 rt imm
  | .lb base rt off => wordI 32 base rt off
  | .lh base rt off => wordI 33 base rt off
  | .lwl base rt off => wordI 34 base rt off
  | .lw base rt off => wordI 35 base rt off
  | .lbu base rt off => wordI 36 base rt off
  | .lhu base rt off => wordI 37 base rt off
  | .lwr base rt off => wordI 38 base rt off
  | .sb base rt off => wordI 40 base rt off
  | .sh base rt off => wordI 41 base rt off
  | .swl base rt off => wordI 42 base rt off
  | .sw base rt off => wordI 43 base rt off
  | .swr base rt off => wordI 46 base rt off
  | .ll base rt off => wordI 48 base rt off
  | .sc base rt off => wordI 56 base rt off
  | .beq rs rt off => wordI 4 rs rt off
  | .bne rs rt off => wordI 5 rs rt off
  | .beql rs rt off => wordI 20 rs rt off
  | .bnel rs rt off => wordI 21 rs rt off
  | .blez rs off => wordI 6 rs 0 off
  | .bgtz rs off => wordI 7 rs 0 off
  | .blezl rs off => wordI 22 rs 0 off
  | .bgtzl rs off => wordI 23 rs 0 off
  | .bltz rs off => wordI 1 rs 0 off
  | .bgez rs off => wordI 1 rs 1 off
  | .bltzl rs off => wordI 1 rs 2 off
  | .bgezl rs off => wordI 1 rs 3 off
  | .bltzal rs off => wordI 1 rs 16 off
  | .bgezal rs off => wordI 1 rs 17 off
  | .bltzall rs off => wordI 1 rs 18 off
  | .bgezall rs off => wordI 1 rs 19 off
  | .tgei rs imm => wordI 1 rs 8 imm
  | .tgeiu rs imm => wordI 1 rs 9 imm
  | .tlti rs imm => wordI 1 rs 10 imm
  | .tltiu rs imm => wordI 1 rs 11 imm
  | .teqi rs imm => wordI 1 rs 12 imm
  | .tnei rs imm => wordI 1 rs 14 imm
  | .j idx => wordJ 2 idx
  | .jal idx => wordJ 3 idx
  | .mfc0 rt rd => wordR 16 0 rt rd 0 0
  | .mtc0 rt rd => wordR 16 4 rt rd 0 0
  | .tlbr => wordCo 0 1
  | .tlbwi => wordCo 0 2
  | .tlbwr => wordCo 0 6
  | .tlbp => wordCo 0 8
  | .eret => wordCo 0 24
  | .wait code => wordCo code 32
  | .lwc1 base ft off => wordI 49 base ft off
  | .ldc1 base ft off => wordI 53 base ft off
  | .swc1 base ft off => wordI 57 base ft off
  | .sdc1 base ft off => wordI 61 base ft off
  | .mfc1 rt fs => wordR 17 0 rt fs 0 0
  | .cfc1 rt fs => wordR 17 2 rt fs 0 0
  | .mtc1 rt fs => wordR 17 4 rt fs 0 0
  | .ctc1 rt fs => wordR 17 6 rt fs 0 0
  | .bc1f cc off => wordI 17 8 (ccField cc 0) off
  | .bc1fl cc off => wordI 17 8 (ccField cc 2) off
  | .bc1t cc off => wordI 17 8 (ccField cc 1) off
  | .bc1tl cc off => wordI 17 8 (ccField cc 3) off
  | .addS ft fs fd => wordR 17 16 ft fs fd 0
  | .addD ft fs fd => wordR 17 17 ft fs fd 0
  | .subS ft fs fd => wordR 17 16 ft fs fd 1
  | .subD ft fs fd => wordR 17 17 ft fs fd 1
  | .mulS ft fs fd => wordR 17 16 ft fs fd 2
  | .mulD ft fs fd => wordR 17 17 ft fs fd 2
  | .divS ft fs fd => wordR 17 16 ft fs fd 3
  | .divD ft fs fd => wordR 17 17 ft fs fd 3
  | .sqrtS fs fd => wordR 17 16 0 fs fd 4
  | .sqrtD fs fd => wordR 17 17 0 fs fd 4
  | .absS fs fd => wordR 17 16 0 fs fd 5
  | .absD fs fd => wordR 17 17 0 fs fd 5
  | .movS fs fd => wordR 17 16 0 fs fd 6
  | .movD fs fd => wordR 17 17 0 fs fd 6
  | .negS fs fd => wordR 17 16 0 fs fd 7
  | .negD fs fd => wordR 17 17 0 fs fd 7
  | .roundWS fs fd => wordR 17 16 0 fs fd 12
  | .roundWD fs fd => wordR 17 17 0 fs fd 12
  | .truncWS fs fd => wordR 17 16 0 fs fd 13
  | .truncWD fs fd => wordR 17 17 0 fs fd 13
  | .ceilWS fs fd => wordR 17 16 0 fs fd 14
  | .ceilWD fs fd => wordR 17 17 0 fs fd 14
  | .floorWS fs fd => wordR 17 16 0 fs fd 15
  | .floorWD fs fd => wordR 17 17 0 fs fd 15
  | .cvtWS fs fd => wordR 17 16 0 fs fd 36
  | .cvtWD fs fd => wordR 17 17 0 fs fd 36
  | .cvtSD fs fd => wordR 17 17 0 fs fd 32
  | .cvtSW fs fd => wordR 17 20 0 fs fd 32
  | .cvtDS fs fd => wordR 17 16 0 fs fd 33
  | .cvtDW fs fd => wordR 17 20 0 fs fd 33
  | .movfS cc fs fd => wordR 17 16 (ccField cc 0) fs fd 17
  | .movfD cc fs fd => wordR 17 17 (ccField cc 0) fs fd 17
  | .movtS cc fs fd => wordR 17 16 (ccField cc 1) fs fd 17
  | .movtD cc fs fd => wordR 17 17 (ccField cc 1) fs fd 17
  | .movzS rt fs fd => wordR 17 16 rt fs fd 18
  | .movzD rt fs fd => wordR 17 17 rt fs fd 18
  | .movnS rt fs fd => wordR 17 16 rt fs fd 19
  | .movnD rt fs fd => wordR 17 17 rt fs fd 19
  | .cFS ft fs cc => wordR 17 16 ft fs (ccCmpField cc) 48
  | .cFD ft fs cc => wordR 17 17 ft fs (ccCmpField cc) 48
  | .cUnS ft fs cc => wordR 17 16 ft fs (ccCmpField cc) 49
  | .cUnD ft fs cc => wordR 17 17 ft fs (ccCmpField cc) 49
  | .cEqS ft fs cc => wordR 17 16 ft fs (ccCmpField cc) 50
  | .cEqD ft fs cc => wordR 17 17 ft fs (ccCmpField cc) 50
  | .cUeqS ft fs cc => wordR 17 16 ft fs (ccCmpField cc) 51
  | .cUeqD ft fs cc => wordR 17 17 ft fs (ccCmpField cc) 51
  | .cOltS ft fs cc => wordR 17 16 ft fs (ccCmpField cc) 52
  | .cOltD ft fs cc => wordR 17 17 ft fs (ccCmpField cc) 52
  | .cUltS ft fs cc => wordR 17 16 ft fs (ccCmpField cc) 53
  | .cUltD ft fs cc => wordR 17 17 ft fs (ccCmpField cc) 53
  | .cOleS ft fs cc => wordR 17 16 ft fs (ccCmpField cc) 54
  | .cOleD ft fs cc => wordR 17 17 ft fs (ccCmpField cc) 54
  | .cUleS ft fs cc => wordR 17 16 ft fs (ccCmpField cc) 55
  | .cUleD ft fs cc => wordR 17 17 ft fs (ccCmpField cc) 55
  | .cSfS ft fs cc => wordR 17 16 ft fs (ccCmpField cc) 56
  | .cSfD ft fs cc => wordR 17 17 ft fs (ccCmpField cc) 56
  | .cNgleS ft fs cc => wordR 17 16 ft fs (ccCmpField cc) 57
  | .cNgleD ft fs cc => wordR 17 17 ft fs (ccCmpField cc) 57
  | .cSeqS ft fs cc => wordR 17 16 ft fs (ccCmpField cc) 58
  | .cSeqD ft fs cc => wordR 17 17 ft fs (ccCmpField cc) 58
  | .cNglS ft fs cc => wordR 17 16 ft fs (ccCmpField cc) 59
  | .cNglD ft fs cc => wordR 17 17 ft fs (ccCmpField cc) 59
  | .cLtS ft fs cc => wordR 17 16 ft fs (ccCmpField cc) 60
  | .cLtD ft fs cc => wordR 17 17 ft fs (ccCmpField cc) 60
  | .cNgeS ft fs cc => wordR 17 16 ft fs (ccCmpField cc) 61
  | .cNgeD ft fs cc => wordR 17 17 ft fs (ccCmpField cc) 61
  | .cLeS ft fs cc => wordR 17 16 ft fs (ccCmpField cc) 62
  | .cLeD ft fs cc => wordR 17 17 ft fs (ccCmpField cc) 62
  | .cNgtS ft fs cc => wordR 17 16 ft fs (ccCmpField cc) 63
  | .cNgtD ft fs cc => wordR 17 17 ft fs (ccCmpField cc) 63
  | .b off => wordI 4 0 0 off
  | .bal off => wordI 1 0 17 off
  | .nop => wordR 0 0 0 0 0 0
  | .ssnop => wordR 0 0 0 0 1 0

/-- The bytes of an instruction in memory order. -/
def encodeBytes (big : Bool) (i : Instr) : List Byte := bytesOfWord big (encode i)

/-- The instruction whose bits are w, numbered as spec/opcode_table.json numbers them, as the decoder reads it from its
bytes. Every instruction is one word (spec/30_encoding.md R100); a row's bits above nbits are 0. The bytes are laid out
big-endian, the byte order of State.reset (log 46), and read back in that order; the other order gives the same word. -/
def decodeTableWord (nbits w : Nat) : Option Instr :=
  match decodeBytes true (bytesOfWord true (BitVec.ofNat 32 (w % 2 ^ nbits))) with
  | .ok (i, _) => some i
  | .error _ => none

end Sys2Proof
end

