-- ==== Sys2Proof/Machine/Fetch.lean ====
section
/-! DEFINITION. Fetching an instruction (spec/20_memory.md R75) and what a word that is no instruction raises
(spec/30_encoding.md R127, spec/60_exceptions.md R347, R348). -/
namespace Sys2Proof.Machine

/-- The word a fetch at pc gives: alignment, translation, Bus Error, in memory's byte order (spec/20_memory.md R75). -/
def State.fetch (s : State) : Acc Word :=
  (s.locate s.pc 4 .fetch).bind (fun pa => (s.accept pa 4 .fetch).bind (fun p => .ok (s.wordAt p.toNat)))

/-- The exception of a word that is no instruction: Coprocessor Unusable where the unit of a COP0 or COP1 word cannot be
used (spec/60_exceptions.md R348), otherwise Reserved Instruction (R347). -/
def State.reservedWord (s : State) (w : Word) : Exc :=
  match (opOf w).toNat with
  | 16 => if s.cp0Usable then .reservedInstruction else .coprocessorUnusable 0
  | 17 => if s.cp1Usable then .reservedInstruction else .coprocessorUnusable 1
  | _ => .reservedInstruction

/-- The instruction at pc, or the exception or stop of the fetch or of a word that is no instruction. -/
def State.nextInstr (s : State) : Acc Instr :=
  s.fetch.bind (fun w =>
    match decode w with
    | .ok i => .ok i
    | .error _ => .exc (s.reservedWord w))

/-- The state with this word stored where the next fetch reads. -/
def State.placeAtPc (s : State) (w : Word) : State :=
  match s.locate s.pc 4 .fetch with
  | .ok pa => { s.setWord pa.toNat w with waiting := false }
  | .exc _ => s
  | .stop _ => s

end Sys2Proof.Machine
end

