-- ==== Sys2Proof/Machine/Window.lean ====
section
/-! DEFINITION. The write-after-read window of HI and LO as its reader meets it: what an MFHI or MFLO delivers is
undefined if one of the two instructions executed next is a writer of the register it read (spec/44_muldiv.md R214, U6,
spec/92_eei_decisions.md D39; spec/00_scope.md R10: an effect at T-i takes place i instruction times earlier). The step
of an MFHI or MFLO therefore looks ahead: it runs the machine on to those two instructions. -/
namespace Sys2Proof.Machine

/-- MFHI and MFLO open the window (spec/44_muldiv.md R214). -/
def opensWindow : Instr → Bool
  | .mfhi _ => true
  | .mflo _ => true
  | _ => false

/-- Which of HI and LO an instruction makes undefined in the two instruction times before it
(spec/44_muldiv.md R214). -/
def windowOf : Instr → Bool × Bool
  | .mult _ _ => (true, true)
  | .multu _ _ => (true, true)
  | .div _ _ => (true, true)
  | .divu _ _ => (true, true)
  | .mthi _ => (true, false)
  | .mtlo _ => (false, true)
  | _ => (false, false)

/-- The state with an entry of the history that names register 0: it has moved on exactly when an instruction has been
executed to its end. -/
def State.marked (s : State) (fromHi : Bool) : State := { s with hist1 := some ⟨fromHi, 0⟩, hist2 := none }

/-- In the steps from here on, as many as the first number, one of the next so many executed instructions is a writer of
HI (or LO). Only instructions that are executed count: not one that is nullified (spec/10_state.md R27), that raises an
exception, or that an interrupt, ERET or a reset leaves behind (spec/92_eei_decisions.md D39). -/
def State.undoneAhead (fromHi : Bool) : Nat → Nat → State → Bool
  | 0, _, _ => false
  | _ + 1, 0, _ => false
  | steps + 1, left + 1, s =>
    match s.begin with
    | .done t => decide (s.input.event ≠ .reset) && State.undoneAhead fromHi steps (left + 1) t
    | .run u =>
      match u.nextInstr with
      | .ok i =>
        HiLoRead.undoneBy (windowOf i).1 (windowOf i).2 ⟨fromHi, 0⟩ ||
          match exec i (u.marked fromHi) with
          | .next t => State.undoneAhead fromHi steps (if t.hist2.isSome then left else left + 1) t
          | .fault _ => false
          | .refused _ => false
      | .exc x => State.undoneAhead fromHi steps (left + 1) (u.raise x)
      | .stop _ => false

/-- How many steps are looked at: those of the scripted inputs, and enough for two instructions and the exceptions
between them. DESIGN CHOICE (log 14). -/
def State.horizon (s : State) : Nat := s.env.length + 16

/-- After an MFHI or MFLO: where one of the next two executed instructions undoes what it delivered, the register is free
(spec/44_muldiv.md R214, U6). DESIGN CHOICE (log 14): the spec's treatment refuses the writer. -/
def State.settle (t : State) : State :=
  match t.hist1 with
  | some e =>
    if t.undoneAhead e.fromHi t.horizon 2 then { t.writeGpr e.rd (t.freeWord .window1) with hist1 := none } else t
  | none => t

/-- The outcome of an instruction's step, from that of its meaning: an MFHI or MFLO delivers what the window leaves of
its value (spec/44_muldiv.md R214). -/
def delivered (i : Instr) (o : Host.Outcome State Fault Refusal) : Host.Outcome State Fault Refusal :=
  match o with
  | .next t => .next (if opensWindow i then t.settle else t)
  | .fault f => .fault f
  | .refused r => .refused r

end Sys2Proof.Machine
end

