-- ==== Sys2Proof/Machine/Step.lean ====
section
/-! DEFINITION. One step of the machine (spec/10_state.md R26): the start of the step, the fetch, the decoding, and the
meaning of the instruction. -/
namespace Sys2Proof.Machine

/-- Fetch, decode and run, in a state whose step has begun. -/
def runInstr (s : State) : Host.Outcome State Fault Refusal :=
  match s.nextInstr with
  | .ok i => delivered i (exec i s)
  | .exc x => .next (s.raise x)
  | .stop f => .fault f

/-- One step. -/
def step (s : State) : Host.Outcome State Fault Refusal :=
  match s.begin with
  | .done t => .next t
  | .run t => runInstr t

/-- The state whose next step fetches and runs the instruction of these bits (log 39). -/
def State.withFetchWord (s : State) (nbits w : Nat) : State := s.placeAtPc (BitVec.ofNat 32 (w % 2 ^ nbits))

end Sys2Proof.Machine
end

