-- ==== Sys2Proof/Safety.lean ====
section
/-! DEFINITION. The words in which claims about the machine are stated: what an instruction that completes leaves
unchanged, what taking an exception is, the runs, and the invariant that every step keeps. -/
namespace Sys2Proof.Machine

/-! ## Completing -/

/-- Executing i in s answers a next state, and that state is as P says. -/
def Completes (i : Instr) (s : State) (P : State → Prop) : Prop := ∃ t, exec i s = .next t ∧ P t

/-- The outcome is a refusal for this reason. -/
def Refuses (i : Instr) (s : State) (r : Refusal) : Prop := exec i s = .refused r

/-- The outcome is a stop for this reason. -/
def Stops (i : Instr) (s : State) (f : Fault) : Prop := exec i s = .fault f

/-! ## What may change -/

/-- The parts of the machine a program can see, for frames. The program counter, the delay slot flag, the load delay and
the ghosts of R34 and R84(b) are no part: a frame says nothing of them. -/
inductive Part where
  /-- The general registers. -/
  | gprs
  /-- HI and LO. -/
  | hiLo
  /-- LLbit and what the last LL recorded of its address. -/
  | link
  /-- Every CP0 register. -/
  | cp0
  /-- The TLB. -/
  | tlb
  /-- The FPU registers and their tags. -/
  | fprs
  /-- FCSR, the condition codes among it. -/
  | fcsr
  /-- Every byte of memory. -/
  | memory
  /-- The WAIT flag, the parameters, the inputs to come, and the draw counter. -/
  | rest
deriving DecidableEq, Repr

/-- What the last LL recorded of its address is the same (spec/20_memory.md R84(c)). -/
@[simp] def KeepsLink (s t : State) : Prop := t.llAddr = s.llAddr ∧ t.llVa = s.llVa ∧ t.llAttr = s.llAttr

/-- The part is the same in both states. -/
def Part.same (p : Part) (s t : State) : Prop :=
  match p with
  | .gprs => ∀ r, t.readGpr r = s.readGpr r
  | .hiLo => t.hi = s.hi ∧ t.lo = s.lo
  | .link => t.llBit = s.llBit ∧ KeepsLink s t
  | .cp0 => t.cp0 = s.cp0
  | .tlb => t.tlb = s.tlb
  | .fprs => (∀ r, t.readFpr r = s.readFpr r) ∧ ∀ r, t.tagOf r = s.tagOf r
  | .fcsr => t.fcsr = s.fcsr
  | .memory => ∀ a, t.byteAt a = s.byteAt a
  | .rest => t.waiting = s.waiting ∧ t.cfg = s.cfg ∧ t.env = s.env ∧ t.draws = s.draws

/-- Every part is the same but, possibly, these. -/
def KeepsAllBut (parts : List Part) (s t : State) : Prop := ∀ p, p ∉ parts → p.same s t

/-- The next instruction in order follows, in no delay slot and with no load pending (spec/10_state.md R26, R32). -/
def Advances (s t : State) : Prop :=
  t.pc = s.npc ∧ t.npc = s.npc + 4 ∧ t.inDelaySlot = false ∧ t.loadPending = none

/-- As Advances, but the register r has just been loaded (spec/10_state.md R32). -/
def AdvancesLoading (s t : State) (r : Reg) : Prop :=
  t.pc = s.npc ∧ t.npc = s.npc + 4 ∧ t.inDelaySlot = false ∧ t.loadPending = some r

/-- The general register d takes v, or nothing is written if d is 0; no other general register changes
(spec/10_state.md R22). -/
def TakesGpr (s t : State) (d : Reg) (v : Word) : Prop :=
  t.readGpr d = (if d = 0 then 0 else v) ∧ ∀ r, r ≠ d → t.readGpr r = s.readGpr r

/-- The FPU register d takes v with this tag; no other register changes, and the tag of no register but d and its
partner. -/
def TakesFpr (s t : State) (d : Reg) (v : Word) (tag : FprTag) : Prop :=
  t.readFpr d = v ∧ t.tagOf d = tag ∧ (∀ r, r ≠ d → t.readFpr r = s.readFpr r)
    ∧ (t.tagOf (partner d) = (s.tagOf (partner d)).broken) ∧ ∀ r, r ≠ d → r ≠ partner d → t.tagOf r = s.tagOf r

/-- The pair of FPU registers named by the even d takes v, the low word in d, both with this tag; no other register
changes (spec/10_state.md R50, R52). -/
def TakesFprPair (s t : State) (d : Reg) (v : DWord) (tag : FprTag) : Prop :=
  t.readFpr d = v.extractLsb' 0 32 ∧ t.readFpr (partner d) = v.extractLsb' 32 32
    ∧ t.tagOf d = tag ∧ t.tagOf (partner d) = tag
    ∧ ∀ r, r ≠ d → r ≠ partner d → t.readFpr r = s.readFpr r ∧ t.tagOf r = s.tagOf r

/-- The byte of an n-byte value that lies k bytes above its lowest address (spec/20_memory.md R63). -/
def byteOf (big : Bool) (n k : Nat) (v : BitVec (8 * n)) : Byte := v.extractLsb' (8 * (if big then n - 1 - k else k)) 8

/-- Memory changes at the n bytes from a only, and there holds these bytes. -/
def TakesBytes (s t : State) (a n : Nat) (bytes : Nat → Byte) : Prop :=
  (∀ k, k < n → t.byteAt (a + k) = bytes k) ∧ ∀ b, (b < a ∨ a + n ≤ b) → t.byteAt b = s.byteAt b

/-! ## Exceptions -/

/-- t is s after the entry of an exception with this code (spec/60_exceptions.md R350): EPC and Cause.BD when EXL was 0,
the code, EXL, the vector; no register of the program, no memory and no TLB entry changes. The three bits of the vector's
offset and the address registers are said separately. -/
structure Enters (s t : State) (code : BitVec 5) (offset : Word) : Prop where
  /-- EPC names the victim, or the branch before it, unless EXL was 1. -/
  epc : t.cp0.epc = if s.cp0.exl then s.cp0.epc else if s.inDelaySlot then s.pc - 4 else s.pc
  /-- Cause.BD, unless EXL was 1. -/
  bd : t.cp0.cause.getLsbD 31 = if s.cp0.exl then s.cp0.cause.getLsbD 31 else s.inDelaySlot
  /-- Cause.ExcCode. -/
  exccode : t.cp0.cause.extractLsb' 2 5 = code
  /-- The rest of Cause but CE. -/
  causeRest : t.cp0.cause &&& 0x4FFFFF83 = s.cp0.cause &&& 0x4FFFFF83
  /-- Status gets EXL. -/
  status : t.cp0.status = s.cp0.status ||| 2
  /-- The vector. -/
  pc : t.pc = (if s.cp0.bev then s.cfg.vecBaseBoot else s.cfg.vecBaseNormal) + offset
  /-- The instruction after the vector's follows. -/
  npc : t.npc = t.pc + 4
  /-- No delay slot. -/
  slot : t.inDelaySlot = false
  /-- No load delay. -/
  delay : t.loadPending = none
  /-- The link is lost. -/
  link : t.llBit = false
  /-- The other CP0 registers. -/
  cp0Rest : t.cp0.index = s.cp0.index ∧ t.cp0.random = s.cp0.random ∧ t.cp0.entryLo0 = s.cp0.entryLo0
    ∧ t.cp0.entryLo1 = s.cp0.entryLo1 ∧ t.cp0.pageMask = s.cp0.pageMask ∧ t.cp0.wired = s.cp0.wired
    ∧ t.cp0.count = s.cp0.count ∧ t.cp0.compare = s.cp0.compare ∧ t.cp0.config = s.cp0.config
    ∧ t.cp0.config1 = s.cp0.config1 ∧ t.cp0.errorEpc = s.cp0.errorEpc ∧ t.cp0.timerRequest = s.cp0.timerRequest
  /-- Everything else. -/
  kept : KeepsAllBut [.link, .cp0] s t

/-- The exception records no address: BadVAddr and EntryHi stay (spec/60_exceptions.md R342, R343). -/
def RecordsNothing (s t : State) : Prop := t.cp0.badVAddr = s.cp0.badVAddr ∧ t.cp0.entryHi = s.cp0.entryHi

/-- An Address Error: BadVAddr takes the address, EntryHi stays (spec/60_exceptions.md R342). -/
def RecordsAddress (s t : State) (va : Word) : Prop := t.cp0.badVAddr = va ∧ t.cp0.entryHi = s.cp0.entryHi

/-- A TLB exception: BadVAddr takes the address, EntryHi.VPN2 its bits 31..13 (spec/20_memory.md R73). -/
def RecordsPage (s t : State) (va : Word) : Prop :=
  t.cp0.badVAddr = va ∧ t.cp0.entryHi.extractLsb' 13 19 = va.extractLsb' 13 19
    ∧ t.cp0.entryHi.extractLsb' 0 13 = s.cp0.entryHi.extractLsb' 0 13

/-- Cause.CE stays (spec/60_exceptions.md R350). -/
def KeepsUnit (s t : State) : Prop := t.cp0.cause.extractLsb' 28 2 = s.cp0.cause.extractLsb' 28 2

/-- The general exception of an instruction, without address or unit: offset 0x180 (spec/60_exceptions.md R351). -/
def EntersPlain (s t : State) (code : BitVec 5) : Prop :=
  Enters s t code 0x180 ∧ RecordsNothing s t ∧ KeepsUnit s t

/-- Coprocessor Unusable of a unit (spec/60_exceptions.md R348). -/
def EntersUnusable (s t : State) (unit : BitVec 2) : Prop :=
  Enters s t 11 0x180 ∧ RecordsNothing s t ∧ t.cp0.cause.extractLsb' 28 2 = unit

/-- Address Error of a load or fetch (code 4) or of a store (code 5) (spec/60_exceptions.md R341, R342). -/
def EntersAddressError (s t : State) (code : BitVec 5) (va : Word) : Prop :=
  Enters s t code 0x180 ∧ RecordsAddress s t va ∧ KeepsUnit s t

/-- A TLB exception with this code at this offset (spec/60_exceptions.md R341, R343, R351). -/
def EntersTlb (s t : State) (code : BitVec 5) (offset : Word) (va : Word) : Prop :=
  Enters s t code offset ∧ RecordsPage s t va ∧ KeepsUnit s t

/-! ## The window of HI and LO -/

/-- A writer of HI (hi) or LO (lo) undoes what this MFHI or MFLO of the last two instructions delivered
(spec/44_muldiv.md R214). -/
def Undoes (s : State) (hi lo : Bool) (e : HiLoRead) : Prop :=
  (s.hist1 = some e ∨ s.hist2 = some e) ∧ (if e.fromHi then hi else lo) = true

/-- Nothing that such a writer undoes is in these registers. -/
def UndoesNoneOf (s : State) (hi lo : Bool) (regs : List Reg) : Prop := ∀ e, Undoes s hi lo e → e.rd ∉ regs

/-- Every general register is the same but, possibly, those whose MFHI or MFLO such a writer undoes. -/
def KeepsGprsBut (s t : State) (hi lo : Bool) : Prop :=
  ∀ r, (∀ e, Undoes s hi lo e → e.rd ≠ r) → t.readGpr r = s.readGpr r

/-! ## Accesses -/

/-- The address goes through the TLB (spec/20_memory.md R71): below 0x80000000 unless ERL is set, or, in kernel mode, from
0xC0000000 up. -/
def Mapped (s : State) (va : Word) : Prop :=
  (va.toNat < 2 ^ 31 ∧ s.cp0.erl = false) ∨ (3 * 2 ^ 30 ≤ va.toNat ∧ s.userMode = false)

/-- The exceptions of an instruction that accesses n bytes at va (spec/20_memory.md R69, R72, R76, R80): what the checks
find wrong, in their order. Once all of them pass at the physical address pa, the platform is asked about the size bytes
at place pa, if the instruction goes that far. -/
structure AccessTraps (i : Instr) (s : State) (va : Word) (n : Nat) (k : AccessKind) (place : PAddr → PAddr) (size : Nat)
    (goes : PAddr → Bool) : Prop where
  /-- A misaligned address: Address Error. -/
  misaligned : va.toNat % n ≠ 0 → Completes i s (fun t => EntersAddressError s t (if k = .store then 5 else 4) va)
  /-- An address outside kuseg in user mode: Address Error. -/
  forbidden : va.toNat % n = 0 → s.userMode = true → 2 ^ 31 ≤ va.toNat →
    Completes i s (fun t => EntersAddressError s t (if k = .store then 5 else 4) va)
  /-- A mapped address that no TLB entry matches: TLB Refill, at its own vector unless EXL is set. -/
  refill : va.toNat % n = 0 → Mapped s va → s.tlbHits va = [] →
    Completes i s (fun t => EntersTlb s t (if k = .store then 3 else 2) (if s.cp0.exl then 0x180 else 0) va)
  /-- A page that is not valid: TLB Invalid. -/
  invalid : ∀ e, va.toNat % n = 0 → Mapped s va → s.tlbHits va = [e] → (e.page va).v = false →
    Completes i s (fun t => EntersTlb s t (if k = .store then 3 else 2) 0x180 va)
  /-- A store to a page that is not dirty: TLB Modified. -/
  modified : ∀ e, va.toNat % n = 0 → Mapped s va → s.tlbHits va = [e] → (e.page va).v = true → k = .store →
    (e.page va).d = false → Completes i s (fun t => EntersTlb s t 1 0x180 va)
  /-- Several matches: the stop of U12. -/
  doubled : ∀ e f l, va.toNat % n = 0 → Mapped s va → s.tlbHits va = e :: f :: l → Stops i s .tlbMultipleMatch
  /-- A physical address the platform rejects: Bus Error. -/
  rejected : ∀ pa, s.locate va n k = .ok pa → goes pa = true → s.admits (place pa).toNat size k = false →
    Completes i s (fun t => EntersPlain s t 7)

/-- A load completes with this value in rt, which the next instruction must not read; nothing else changes, but that a
link may be lost (spec/20_memory.md R84(b)). -/
def Loads (i : Instr) (s : State) (rt : Reg) (v : Word) : Prop :=
  Completes i s (fun t => TakesGpr s t rt v ∧ AdvancesLoading s t rt ∧ KeepsAllBut [.gprs, .link] s t
    ∧ KeepsLink s t ∧ (t.llBit = true → s.llBit = true))

/-- A store completes with these n bytes at a; nothing else changes, but that a link may be lost
(spec/20_memory.md R84(b)). -/
def Stores (i : Instr) (s : State) (a n : Nat) (bytes : Nat → Byte) : Prop :=
  Completes i s (fun t => TakesBytes s t a n bytes ∧ Advances s t ∧ KeepsAllBut [.memory, .link] s t
    ∧ KeepsLink s t ∧ (t.llBit = true → s.llBit = true))

/-- Where control goes after a branch at s.pc (spec/45_branch_jump.md R220): the address of the next instruction, of the
one after it, and whether the next one stands in a delay slot. -/
def AfterBranch (s t : State) (likely taken : Bool) (target : Word) : Prop :=
  t.loadPending = none ∧ (t.pc, t.npc, t.inDelaySlot) =
    if taken then (s.npc, target, true) else if likely then (s.pc + 8, s.pc + 12, false) else (s.npc, s.npc + 4, true)

/-! ## The FPU -/

/-- The FPU register fd, or the pair it names, takes a result in this format (spec/10_state.md R50, R52). -/
def TakesFormat (s t : State) (fd : Reg) (fmt : Fmt) (v : BitVec 64) : Prop :=
  match fmt with
  | .s => TakesFpr s t fd (v.setWidth 32) .s
  | .w => TakesFpr s t fd (v.setWidth 32) .w
  | .d => TakesFprPair s t fd v .d

/-- FCSR after an operation that met the conditions x: Cause takes them, Flags gathers them or stays, the rest stays
(spec/49_fpu_arith.md R301). -/
def FcsrAfter (old new : Word) (x : FpConds) (gather : Bool) : Prop :=
  fcsrCause new = x.bits ∧ fcsrFlags new = (if gather then fcsrFlags old ||| x.bits.setWidth 5 else fcsrFlags old)
    ∧ new &&& 0xFFFC0F83 = old &&& 0xFFFC0F83

/-- The conditions x trap under this FCSR: Unimplemented Operation, or an enabled one (spec/49_fpu_arith.md R301). -/
def FpTraps (fcsr : Word) (x : FpConds) : Prop := x.unimplemented = true ∨ x.bits.setWidth 5 &&& fcsrEnables fcsr ≠ 0

/-- How an FPU operation that met the conditions x ends: with the trap, when Cause alone has changed, or with P and the
flags gathered (spec/49_fpu_arith.md R301, spec/60_exceptions.md R349). -/
def FpEnds (i : Instr) (s : State) (x : FpConds) (P : State → Prop) : Prop :=
  (FpTraps s.fcsr x → Completes i s (fun t =>
      ∃ c, FcsrAfter s.fcsr c x false ∧ EntersPlain { s with fcsr := c } t 15))
    ∧ (¬ FpTraps s.fcsr x → Completes i s (fun t => P t ∧ Advances s t))

/-- The number a finite operand stands for; 0 for the others. -/
def FpVal.value : FpVal → ℚ
  | .fin neg m e => (if neg then -1 else 1) * (m : ℚ) * (2 : ℚ) ^ e
  | .nan _ => 0
  | .inf _ => 0

/-- A number rounded to an integer: 0 to the nearest, a tie to the even one, 1 toward zero, 2 up, 3 down
(spec/49_fpu_arith.md R319, R320, R321, R328). -/
def roundToInt (rm : BitVec 2) (x : ℚ) : ℤ :=
  match rm.toNat with
  | 0 =>
    let d := x - (⌊x⌋ : ℚ)
    if d < 1 / 2 then ⌊x⌋ else if 1 / 2 < d then ⌊x⌋ + 1 else if ⌊x⌋ % 2 = 0 then ⌊x⌋ else ⌊x⌋ + 1
  | 1 => if x < 0 then ⌈x⌉ else ⌊x⌋
  | 2 => ⌈x⌉
  | _ => ⌊x⌋

/-- The operand is a number, not a NaN or an infinity. -/
def FpVal.isFinite : FpVal → Bool
  | .fin _ _ _ => true
  | .nan _ => false
  | .inf _ => false

/-- An operand on the line of numbers with its two ends; the value of a NaN is of no meaning. -/
def FpVal.extended : FpVal → WithBot (WithTop ℚ)
  | .fin neg m e => (((FpVal.fin neg m e).value : WithTop ℚ) : WithBot (WithTop ℚ))
  | .inf false => ((⊤ : WithTop ℚ) : WithBot (WithTop ℚ))
  | .inf true => ⊥
  | .nan _ => ⊥

/-- The number a pattern of the format stands for; 0 for infinities and NaNs. -/
noncomputable def patternValue (f : FpFormat) (w : BitVec 64) : ℝ := ((fpUnpack f false w).value : ℚ)

/-- out is the number x rounded to the format in this mode (spec/49_fpu_arith.md R300): a finite number of x's sign, less
than one unit in its last place from x; to nearest, no number of the format is nearer, and one as near leaves the even
one; toward zero, up and down, it is the last number of the format on that side of x; inexact exactly when it is not x. -/
def RoundsTo (f : FpFormat) (rm : BitVec 2) (x : ℝ) (out : FpOut) : Prop :=
  ∃ neg m e, fpUnpack f false out.value = .fin neg m e ∧ (neg = true ↔ x < 0) ∧
    let v := patternValue f out.value
    |x - v| < (2 : ℝ) ^ e
    ∧ (rm = 0 → ∀ w, |x - v| ≤ |x - patternValue f w|
        ∧ (|x - v| = |x - patternValue f w| → patternValue f w = v ∨ m % 2 = 0))
    ∧ (rm = 1 → |v| ≤ |x| ∧ ∀ w, |patternValue f w| ≤ |x| → |patternValue f w| ≤ |v|)
    ∧ (rm = 2 → x ≤ v ∧ ∀ w, x ≤ patternValue f w → v ≤ patternValue f w)
    ∧ (rm = 3 → v ≤ x ∧ ∀ w, patternValue f w ≤ x → patternValue f w ≤ v)
    ∧ (out.conds.inexact = true ↔ x ≠ v)

/-- x, rounded in this mode as if exponents had no bound, is at least t in size. t is a power of two, the numbers just
below it lie u apart, and half way to the last of them is a tie, which goes to the even one, t. -/
def RoundsUpTo (rm : BitVec 2) (x t u : ℝ) : Prop :=
  match rm.toNat with
  | 0 => t - u / 2 ≤ |x|
  | 1 => t ≤ |x|
  | 2 => t ≤ |x| ∨ (0 < x ∧ t - u < x)
  | _ => t ≤ |x| ∨ (x < 0 ∧ t - u < -x)

/-- out is the whole result of rounding the nonzero x (spec/49_fpu_arith.md R300, R303): Overflow exactly when the rounded
number would exceed the largest finite one, and then R303's result; otherwise the rounded number; Underflow exactly when
the rounded number would be below the smallest normal one and is inexact or Underflow is enabled (R300(d)); no other
condition. That both are judged by the number rounded as if exponents had no bound is DEDUCED (log 40). -/
def Rounded (f : FpFormat) (rm : BitVec 2) (enabled : Bool) (x : ℝ) (out : FpOut) : Prop :=
  (out.conds.overflow = true ↔ RoundsUpTo rm x (2 ^ ((f.bias : ℤ) + 1)) (2 ^ ((f.bias : ℤ) - f.fracBits)))
  ∧ (out.conds.overflow = true → ∃ neg, (neg = true ↔ x < 0) ∧ out = fpOverflow f rm neg)
  ∧ (out.conds.overflow = false → RoundsTo f rm x out)
  ∧ (out.conds.underflow = true ↔ ¬ RoundsUpTo rm x (2 ^ (1 - (f.bias : ℤ))) (2 ^ (-(f.bias : ℤ) - f.fracBits))
      ∧ (out.conds.inexact = true ∨ enabled = true))
  ∧ out.conds.unimplemented = false ∧ out.conds.invalid = false ∧ out.conds.divByZero = false

/-! ## Families of instructions -/

/-- The instruction is one of coprocessor 0 (spec/60_exceptions.md R348): op = 010000. -/
def usesCp0 (i : Instr) : Bool := opOf (encode i) = 16

/-- The instruction is one of coprocessor 1 (spec/60_exceptions.md R348): op = 010001, LWC1, LDC1, SWC1, SDC1. -/
def usesCp1 (i : Instr) : Bool := (opOf (encode i)).toNat ∈ [17, 49, 53, 57, 61]

/-- The instruction can store to memory: SB, SH, SWL, SW, SWR, SC, SWC1, SDC1, by primary opcode
(spec/30_encoding.md R109). -/
def storesMemory (i : Instr) : Bool := (opOf (encode i)).toNat ∈ [40, 41, 42, 43, 46, 56, 57, 61]

/-- The instruction is one of those that must not stand in a delay slot: a branch, a jump, ERET or WAIT
(spec/10_state.md R29). -/
def notInSlot (i : Instr) : Bool :=
  let w := encode i
  let op := (opOf w).toNat
  decide (op ∈ [2, 3, 4, 5, 6, 7, 20, 21, 22, 23])
    || (decide (op = 1) && decide ((rtOf w).toNat ∈ [0, 1, 2, 3, 16, 17, 18, 19]))
    || (decide (op = 0) && decide ((functOf w).toNat ∈ [8, 9]))
    || (decide (op = 17) && decide ((rsOf w).toNat = 8))
    || (decide (op = 16) && decide ((functOf w).toNat ∈ [24, 32]) && decide (16 ≤ (rsOf w).toNat))

/-- The instruction can write HI or LO (spec/10_state.md R34). -/
def writesHiLo : Instr → Bool
  | .mult _ _ => true
  | .multu _ _ => true
  | .mul _ _ _ => true
  | .madd _ _ => true
  | .maddu _ _ => true
  | .msub _ _ => true
  | .msubu _ _ => true
  | .div _ _ => true
  | .divu _ _ => true
  | .mthi _ => true
  | .mtlo _ => true
  | _ => false

/-! ## Runs -/

/-- t is reached from s by some number of steps. -/
inductive Reaches : State → State → Prop where
  /-- No step. -/
  | here (s : State) : Reaches s s
  /-- One step more. -/
  | more (s t u : State) : Reaches s t → step t = .next u → Reaches s u

/-- A run that goes on: every state it reaches has a next one. -/
def RunsOn (s : State) : Prop := ∀ t, Reaches s t → ∃ u, step t = .next u

/-! ## The invariant -/

/-- The machine's form: every register holds 0 where the spec says its bits are 0, the mode is one of the two the spec
has, and memory is in its canonical form. -/
structure State.Inv (s : State) : Prop where
  /-- Memory lists rising addresses (log 9). -/
  memory : Memory.wf s.mem = true
  /-- GPR[0] holds 0 (spec/10_state.md R22). -/
  zero : s.gpr[0] = 0
  /-- Status: FR and the unnamed bits are 0 (spec/10_state.md R44). -/
  status : s.cp0.status &&& ~~~statusMask = 0
  /-- KSU is 00 or 10 (spec/60_exceptions.md R365). -/
  mode : s.cp0.ksu = 0 ∨ s.cp0.ksu = 2
  /-- Cause: the unnamed bits are 0 (spec/10_state.md R46). -/
  cause : s.cp0.cause &&& ~~~causeMask = 0
  /-- EntryHi: bits 12..8 are 0 (spec/10_state.md R43). -/
  entryHi : s.cp0.entryHi &&& ~~~entryHiMask = 0
  /-- PageMask: only the Mask field may be non-zero (spec/10_state.md R42). -/
  pageMask : s.cp0.pageMask &&& ~~~pageMaskMask = 0
  /-- EntryLo0: bits above the implemented PFN are 0 (spec/10_state.md R41). -/
  entryLo0 : s.cp0.entryLo0 &&& ~~~s.entryLoMask = 0
  /-- EntryLo1, the same. -/
  entryLo1 : s.cp0.entryLo1 &&& ~~~s.entryLoMask = 0
  /-- Wired has n bits (spec/10_state.md R40). -/
  wired : s.cp0.wired &&& ~~~s.indexMask = 0
  /-- Index has P and n bits (spec/10_state.md R39). -/
  index : s.cp0.index &&& ~~~(0x80000000#32 ||| s.indexMask) = 0
  /-- Config is constant but for K0: BE is BigEndianMem, and the other bits stand as at reset (spec/10_state.md R48). -/
  config : s.cp0.config &&& 0xFFFFFFF8 = s.cfg.configReset &&& 0xFFFFFFF8
  /-- Config1 is constant, with CA = 0 (spec/10_state.md R48). -/
  config1 : s.cp0.config1 = s.cfg.config1Reset
  /-- FCSR bits 22..18 are 0 (spec/10_state.md R54). -/
  fcsr : s.fcsr.extractLsb' 18 5 = 0
  /-- There are 1 to 64 TLB entries (spec/00_scope.md R6). -/
  entries : 1 ≤ s.tlbEntries ∧ s.tlbEntries ≤ 64
  /-- Random names an entry (spec/10_state.md R40). -/
  random : s.cp0.random.toNat < s.tlbEntries

end Sys2Proof.Machine
end

