-- ==== Sys2Proof/Certificates/Slice0/Obligations.lean ====
section
/-! DEFINITION. The statements about the machine, for the provers: each says a rule of the spec, or a property of the
whole machine, in the words of Safety.lean. -/

open Sys2Proof Sys2Proof.Machine

/-- The immediate ALU instructions without a trap: word, result, completion and frame. (R161, R162, R163, R164, R165,
R166, R167.) -/
def Obligations.AluImmediateResults : Prop :=
  ∀ (s : State) (rs rt : Reg) (imm : Half),
    let a := s.srcRs rs
    let x : Word := imm.signExtend 32
    let z : Word := imm.setWidth 32
    ∀ p ∈ ([(.addiu rs rt imm, wordI 9 rs rt imm, a + x),
        (.slti rs rt imm, wordI 10 rs rt imm, if a.toInt < x.toInt then 1 else 0),
        (.sltiu rs rt imm, wordI 11 rs rt imm, if a.toNat < x.toNat then 1 else 0),
        (.andi rs rt imm, wordI 12 rs rt imm, 0#16 ++ (imm &&& a.extractLsb' 0 16)),
        (.ori rs rt imm, wordI 13 rs rt imm, a.extractLsb' 16 16 ++ (imm ||| a.extractLsb' 0 16)),
        (.xori rs rt imm, wordI 14 rs rt imm, a ^^^ z),
        (.lui rt imm, wordI 15 0 rt imm, imm ++ 0#16)] : List (Instr × Word × Word)),
      decode p.2.1 = .ok p.1
        ∧ Completes p.1 s (fun t => TakesGpr s t rt p.2.2 ∧ Advances s t ∧ KeepsAllBut [.gprs] s t)

/-- The three-operand ALU instructions without a trap: word, result, completion and frame. (R171, R173, R174, R175,
R176, R177, R178, R179.) -/
def Obligations.AluRegisterResults : Prop :=
  ∀ (s : State) (rs rt rd : Reg),
    let a := s.srcRs rs
    let b := s.srcRt rt
    ∀ p ∈ ([(.addu rs rt rd, wordR 0 rs rt rd 0 33, BitVec.ofNat 32 (a.toNat + b.toNat)),
        (.subu rs rt rd, wordR 0 rs rt rd 0 35, BitVec.ofInt 32 ((a.toNat : Int) - b.toNat)),
        (.slt rs rt rd, wordR 0 rs rt rd 0 42, if a.toInt < b.toInt then 1 else 0),
        (.sltu rs rt rd, wordR 0 rs rt rd 0 43, if a.toNat < b.toNat then 1 else 0),
        (.and rs rt rd, wordR 0 rs rt rd 0 36, a &&& b),
        (.or rs rt rd, wordR 0 rs rt rd 0 37, a ||| b),
        (.xor rs rt rd, wordR 0 rs rt rd 0 38, a ^^^ b),
        (.nor rs rt rd, wordR 0 rs rt rd 0 39, ~~~(a ||| b))] : List (Instr × Word × Word)),
      decode p.2.1 = .ok p.1
        ∧ Completes p.1 s (fun t => TakesGpr s t rd p.2.2 ∧ Advances s t ∧ KeepsAllBut [.gprs] s t)

/-- ADD, SUB and ADDI give the exact signed result, or trap exactly when it does not fit. (R160, R170, R172.) -/
def Obligations.OverflowTrapsExactly : Prop :=
  ∀ (s : State) (rs rt rd : Reg) (imm : Half),
    let a := (s.srcRs rs).toInt
    let b := (s.srcRt rt).toInt
    ∀ p ∈ ([(.add rs rt rd, wordR 0 rs rt rd 0 32, rd, a + b),
        (.sub rs rt rd, wordR 0 rs rt rd 0 34, rd, a - b),
        (.addi rs rt imm, wordI 8 rs rt imm, rt, a + imm.toInt)] : List (Instr × Word × Reg × Int)),
      decode p.2.1 = .ok p.1
        ∧ (-2 ^ 31 ≤ p.2.2.2 → p.2.2.2 ≤ 2 ^ 31 - 1 → Completes p.1 s (fun t =>
            TakesGpr s t p.2.2.1 (BitVec.ofInt 32 p.2.2.2) ∧ Advances s t ∧ KeepsAllBut [.gprs] s t))
        ∧ (p.2.2.2 < -2 ^ 31 ∨ 2 ^ 31 - 1 < p.2.2.2 → Completes p.1 s (fun t => EntersPlain s t 12))

/-- CLO and CLZ count the leading ones and zeros, and are refused where rt and rd differ. That the form with rt and rd
different is refused is the model's choice (log 17); R123 and U5 call its operation unpredictable. (R180, R181, R123.)
-/
def Obligations.LeadingBitCounts : Prop :=
  ∀ (s : State) (rs rt rd : Reg),
    let a := s.srcRs rs
    ∀ p ∈ ([(.clo rs rt rd, wordR 28 rs rt rd 0 33, true), (.clz rs rt rd, wordR 28 rs rt rd 0 32, false)] :
        List (Instr × Word × Bool)),
      decode p.2.1 = .ok p.1
        ∧ (rt = rd → ∃ n, n ≤ 32 ∧ (∀ k, k < n → a.getLsbD (31 - k) = p.2.2)
            ∧ (n < 32 → a.getLsbD (31 - n) = !p.2.2)
            ∧ Completes p.1 s (fun t => TakesGpr s t rd (BitVec.ofNat 32 n) ∧ Advances s t ∧ KeepsAllBut [.gprs] s t))
        ∧ (rt ≠ rd → Refuses p.1 s .countRegistersDiffer)

/-- MOVN and MOVZ move GPR[rs] to rd when GPR[rt] is not zero, or is zero, and otherwise write nothing. (R182, R183.)
-/
def Obligations.ConditionalMoves : Prop :=
  ∀ (s : State) (rs rt rd : Reg),
    let b := s.srcRt rt
    ∀ p ∈ ([(.movn rs rt rd, wordR 0 rs rt rd 0 11, decide (b ≠ 0)),
        (.movz rs rt rd, wordR 0 rs rt rd 0 10, decide (b = 0))] : List (Instr × Word × Bool)),
      decode p.2.1 = .ok p.1
        ∧ (p.2.2 = true → Completes p.1 s (fun t =>
            TakesGpr s t rd (s.srcRs rs) ∧ Advances s t ∧ KeepsAllBut [.gprs] s t))
        ∧ (p.2.2 = false → Completes p.1 s (fun t => Advances s t ∧ KeepsAllBut [] s t))

/-- The shifts as multiplication and division by powers of two; NOP and SSNOP change nothing but the PC. (R190, R191,
R192, R193, R194, R195, R196, R197.) -/
def Obligations.ShiftResults : Prop :=
  ∀ (s : State) (rs rt rd : Reg) (sa : BitVec 5),
    let b := s.srcRt rt
    let n := (s.srcRs rs).toNat % 32
    (∀ p ∈ ([(.sll rt rd sa, wordR 0 0 rt rd sa 0, BitVec.ofNat 32 (b.toNat * 2 ^ sa.toNat)),
        (.srl rt rd sa, wordR 0 0 rt rd sa 2, BitVec.ofNat 32 (b.toNat / 2 ^ sa.toNat)),
        (.sra rt rd sa, wordR 0 0 rt rd sa 3, BitVec.ofInt 32 (b.toInt / 2 ^ sa.toNat)),
        (.sllv rs rt rd, wordR 0 rs rt rd 0 4, BitVec.ofNat 32 (b.toNat * 2 ^ n)),
        (.srlv rs rt rd, wordR 0 rs rt rd 0 6, BitVec.ofNat 32 (b.toNat / 2 ^ n)),
        (.srav rs rt rd, wordR 0 rs rt rd 0 7, BitVec.ofInt 32 (b.toInt / 2 ^ n))] : List (Instr × Word × Word)),
      decode p.2.1 = .ok p.1
        ∧ Completes p.1 s (fun t => TakesGpr s t rd p.2.2 ∧ Advances s t ∧ KeepsAllBut [.gprs] s t))
    ∧ ∀ p ∈ ([(.nop, 0, 0), (.ssnop, 0x40, 1)] : List (Instr × Word × BitVec 5)),
      decode p.2.1 = .ok (.sll 0 0 p.2.2)
        ∧ Completes p.1 s (fun t => Advances s t ∧ KeepsAllBut [] s t)
        ∧ Completes (.sll 0 0 p.2.2) s (fun t => Advances s t ∧ KeepsAllBut [] s t)

/-- What a source register, an effective address, a branch target and a jump target are. That a register read in its
load delay gives a free value is the model's choice (log 12): R32 and U2 refuse such a read. (R22, R32, R68, R105,
R30.) -/
def Obligations.OperandForms : Prop :=
  ∀ s : State,
    (∀ r : Reg, r = 0 → s.srcRs r = 0 ∧ s.srcRt r = 0 ∧ s.readGpr r = 0)
    ∧ (∀ r : Reg, s.loadPending ≠ some r → s.srcRs r = s.readGpr r ∧ s.srcRt r = s.readGpr r)
    ∧ (∀ r : Reg, r ≠ 0 → s.loadPending = some r →
        s.srcRs r = s.freeWord .delayRs ∧ s.srcRt r = s.freeWord .delayRt)
    ∧ (∀ (base : Reg) (off : Half),
        ((s.effAddr base off).toNat : Int) = ((s.srcRs base).toNat + off.toInt) % 2 ^ 32)
    ∧ (∀ (cur : Word) (off : Half),
        ((branchTarget cur off).toNat : Int) = (cur.toNat + 4 + 4 * off.toInt) % 2 ^ 32)
    ∧ ∀ (cur : Word) (idx : BitVec 26),
        (jumpTarget cur idx).toNat = (cur + 4).toNat / 2 ^ 28 * 2 ^ 28 + 4 * idx.toNat

/-- The multiplies and the four accumulating forms as exact products and sums modulo 2^64. The model's choices:
completion inside the window of R214, with the undone registers free (log 14), where U6 refuses; HI and LO readable
after MUL (log 13); MADD to MSUBU on any HI and LO and without a window (log 50). (R200, R201, R202, R203, R204, R205,
R206, R214, R216.) -/
def Obligations.MultiplyResults : Prop :=
  ∀ (s : State) (rs rt rd : Reg),
    let a := s.srcRs rs
    let b := s.srcRt rt
    let c := (s.spoilWindow true true).srcRs rs
    let d := (s.spoilWindow true true).srcRt rt
    (∀ p ∈ ([(.mult rs rt, wordR 0 rs rt 0 0 24, c.toInt * d.toInt),
        (.multu rs rt, wordR 0 rs rt 0 0 25, (c.toNat : Int) * d.toNat)] : List (Instr × Word × Int)),
      decode p.2.1 = .ok p.1
        ∧ Completes p.1 s (fun t =>
            t.hi ++ t.lo = BitVec.ofInt 64 p.2.2 ∧ t.pairFresh = true ∧ KeepsGprsBut s t true true ∧ Advances s t
              ∧ KeepsAllBut [.gprs, .hiLo] s t))
    ∧ (UndoesNoneOf s true true [rs, rt] → c = a ∧ d = b)
    ∧ (∀ p ∈ ([(.madd rs rt, wordR 28 rs rt 0 0 0, a.toInt * b.toInt),
        (.maddu rs rt, wordR 28 rs rt 0 0 1, (a.toNat : Int) * b.toNat),
        (.msub rs rt, wordR 28 rs rt 0 0 4, -(a.toInt * b.toInt)),
        (.msubu rs rt, wordR 28 rs rt 0 0 5, -((a.toNat : Int) * b.toNat))] : List (Instr × Word × Int)),
      decode p.2.1 = .ok p.1
        ∧ Completes p.1 s (fun t => t.hi ++ t.lo = BitVec.ofInt 64 ((s.hi ++ s.lo).toNat + p.2.2)
            ∧ t.pairFresh = s.pairFresh ∧ Advances s t ∧ KeepsAllBut [.hiLo] s t))
    ∧ decode (wordR 28 rs rt rd 0 2) = .ok (.mul rs rt rd)
    ∧ Completes (.mul rs rt rd) s (fun t => TakesGpr s t rd (BitVec.ofInt 32 (a.toInt * b.toInt)) ∧ Advances s t
        ∧ KeepsAllBut [.gprs, .hiLo] s t)

/-- DIV truncates toward zero, DIVU divides natural numbers; a zero divisor completes with HI and LO free. The model's
choices: free HI and LO after a zero divisor (log 13, against the later refusal of U3), and completion inside the
window of R214 with the undone registers free (log 14, against the refusal of U6). (R207, R208, R209, R214, R216.) -/
def Obligations.DivideResults : Prop :=
  ∀ (s : State) (rs rt : Reg),
    let a := (s.spoilWindow true true).srcRs rs
    let b := (s.spoilWindow true true).srcRt rt
    let ends (t : State) : Prop :=
      t.pairFresh = true ∧ KeepsGprsBut s t true true ∧ Advances s t ∧ KeepsAllBut [.gprs, .hiLo] s t
    (UndoesNoneOf s true true [rs, rt] → a = s.srcRs rs ∧ b = s.srcRt rt)
    ∧ decode (wordR 0 rs rt 0 0 26) = .ok (.div rs rt) ∧ decode (wordR 0 rs rt 0 0 27) = .ok (.divu rs rt)
    ∧ (b ≠ 0 → ¬ (a = 0x80000000 ∧ b = 0xFFFFFFFF) → Completes (.div rs rt) s (fun t =>
        a.toInt = t.lo.toInt * b.toInt + t.hi.toInt ∧ |t.hi.toInt| < |b.toInt|
          ∧ (t.hi.toInt ≠ 0 → (t.hi.toInt < 0 ↔ a.toInt < 0)) ∧ ends t))
    ∧ (a = 0x80000000 → b = 0xFFFFFFFF → Completes (.div rs rt) s (fun t => t.lo = 0x80000000 ∧ t.hi = 0 ∧ ends t))
    ∧ (b ≠ 0 → Completes (.divu rs rt) s (fun t =>
        a.toNat = t.lo.toNat * b.toNat + t.hi.toNat ∧ t.hi.toNat < b.toNat ∧ ends t))
    ∧ (b = 0 → ∀ i ∈ ([.div rs rt, .divu rs rt] : List Instr), Completes i s ends)

/-- MFHI, MFLO, MTHI and MTLO move one register and leave the other, but for the pair rule. The model's choices: MFHI
and MFLO of a pair that holds no value (logs 2, 13), MTHI and MTLO inside the window of R214 (log 14, where U6
refuses), and the free other half of the pair rule (log 15, R216). (R210, R211, R212, R213, R214, R216.) -/
def Obligations.HiLoMoves : Prop :=
  ∀ (s : State) (rs rd : Reg),
    (∀ p ∈ ([(.mfhi rd, wordR 0 0 0 rd 0 16, s.hi), (.mflo rd, wordR 0 0 0 rd 0 18, s.lo)] :
        List (Instr × Word × Word)),
      decode p.2.1 = .ok p.1
        ∧ Completes p.1 s (fun t => TakesGpr s t rd p.2.2 ∧ t.pairFresh = false ∧ Advances s t
            ∧ KeepsAllBut [.gprs] s t))
    ∧ decode (wordR 0 rs 0 0 0 17) = .ok (.mthi rs) ∧ decode (wordR 0 rs 0 0 0 19) = .ok (.mtlo rs)
    ∧ (UndoesNoneOf s true false [rs] → (s.spoilWindow true false).srcRs rs = s.srcRs rs)
    ∧ (UndoesNoneOf s false true [rs] → (s.spoilWindow false true).srcRs rs = s.srcRs rs)
    ∧ Completes (.mthi rs) s (fun t => t.hi = (s.spoilWindow true false).srcRs rs
          ∧ (s.pairFresh = false → t.lo = s.lo) ∧ t.pairFresh = false
          ∧ KeepsGprsBut s t true false ∧ Advances s t ∧ KeepsAllBut [.gprs, .hiLo] s t)
    ∧ Completes (.mtlo rs) s (fun t => t.lo = (s.spoilWindow false true).srcRs rs
          ∧ (s.pairFresh = false → t.hi = s.hi) ∧ t.pairFresh = false
          ∧ KeepsGprsBut s t false true ∧ Advances s t ∧ KeepsAllBut [.gprs, .hiLo] s t)

/-- An MFHI or MFLO delivers a free value if one of the two instructions executed next is a writer of what it read.
The model's choices (logs 14 and 44): R214 says that the delivered value is undefined and U6 refuses the writer; the
model goes on with a free value. (R214.) -/
def Obligations.HiLoWindow : Prop :=
  ∀ (s : State) (rs rt rd : Reg),
    let writers (a b : Reg) : List (Instr × Bool × Bool) := [(.mult a b, true, true), (.multu a b, true, true),
      (.div a b, true, true), (.divu a b, true, true), (.mthi a, true, false), (.mtlo a, false, true)]
    (rd ≠ 0 → Completes (.mfhi rd) s (fun t => t.hist1 = some ⟨true, rd⟩)
        ∧ Completes (.mflo rd) s (fun t => t.hist1 = some ⟨false, rd⟩))
    ∧ (∀ e, s.hist1 = some e → Completes .nop s (fun t => t.hist1 = none ∧ t.hist2 = some e)
        ∧ (e.rd ≠ 0 → Completes (.addu rs rt e.rd) s (fun t => t.hist1 = none ∧ t.hist2 = none)))
    ∧ (∀ p ∈ writers rs rt, Completes p.1 s (fun t =>
        KeepsGprsBut s t p.2.1 p.2.2 ∧ Advances s t ∧ KeepsAllBut [.gprs, .hiLo] s t
          ∧ (∀ e, s.hist1 = some e → (if e.fromHi then p.2.1 else p.2.2) = true → e.rd ≠ 0 →
              t.readGpr e.rd = s.freeWord .window1)))
    ∧ (∀ e u i, s.hist1 = some e → s.begin = .run u → u.nextInstr = .ok i →
        let writes (j : Instr) (it : Bool) : Prop :=
          ∃ a b, ∃ p ∈ writers a b, p.1 = j ∧ (if e.fromHi then p.2.1 else p.2.2) = it
        let other (j : Instr) : Prop := ∃ (a b d : Reg) (sa : BitVec 5) (off : Half),
          j ∈ ([.sll b d sa, .addu a b d, .madd a b, .beql a b off, .bnel a b off] : List Instr)
        let freed : State := { s.writeGpr e.rd (s.freeWord .window1) with hist1 := none }
        (writes i true → s.settle = freed)
        ∧ ∀ v w j, v.begin = .run w → w.nextInstr = .ok j →
          (other i → exec i u = .next v →
              (writes j true → s.settle = freed) ∧ (other j ∨ writes j false → s.settle = s))
            ∧ (exec i (u.marked e.fromHi) = .next v → v.hist2.isSome = true → writes j true → s.settle = freed))

/-- The segments (kuseg mapped or, under ERL, unmapped, kseg0, kseg1, the rest mapped, user mode kuseg only), and the
alignment check before them. (R69, R70, R71, R76, R365.) -/
def Obligations.SegmentMap : Prop :=
  ∀ (s : State) (va : Word) (k : AccessKind),
    (va.toNat < 2 ^ 31 → s.cp0.erl = true →
      ∃ p, s.translate va k = .ok (p, 2) ∧ p.toNat = va.toNat)
    ∧ (Mapped s va → s.translate va k = s.throughTlb va k)
    ∧ (2 ^ 31 ≤ va.toNat → s.userMode = true → s.translate va k = .exc (.addressError va k))
    ∧ (2 ^ 31 ≤ va.toNat → va.toNat < 0xA0000000 → s.userMode = false →
      ∃ p, s.translate va k = .ok (p, s.cp0.config.extractLsb' 0 3) ∧ p.toNat = va.toNat - 0x80000000)
    ∧ (0xA0000000 ≤ va.toNat → va.toNat < 0xC0000000 → s.userMode = false →
      ∃ p, s.translate va k = .ok (p, 2) ∧ p.toNat = va.toNat - 0xA0000000)
    ∧ ∀ n : Nat, (va.toNat % n ≠ 0 → s.locate va n k = .exc (.addressError va k))
      ∧ (va.toNat % n = 0 →
        (∀ p c, s.translate va k = .ok (p, c) → s.locate va n k = .ok p)
          ∧ (∀ x, s.translate va k = .exc x → s.locate va n k = .exc x)
          ∧ (∀ x, s.translate va k = .stop x → s.locate va n k = .stop x))

/-- The TLB: which entries match, and the physical address of a matching valid page, in numbers. That several matches
stop the machine is the model's choice (log 21): R72 and U12 call that case undefined. (R72, R42.) -/
def Obligations.TlbTranslation : Prop :=
  ∀ (s : State) (va : Word) (k : AccessKind),
    (∀ e, e ∈ s.tlbHits va ↔ e ∈ s.tlb ∧ (e.g = true ∨ e.asid = s.cp0.entryHi.extractLsb' 0 8)
        ∧ ∀ j, j < 19 → e.mask.getLsbD j = false → e.vpn2.getLsbD j = va.getLsbD (13 + j))
    ∧ (s.tlbHits va = [] → s.throughTlb va k = .exc (.tlbRefill va k))
    ∧ (∀ e f l, s.tlbHits va = e :: f :: l → s.throughTlb va k = .stop .tlbMultipleMatch)
    ∧ ∀ e n, s.tlbHits va = [e] → e.mask.toNat = 2 ^ n - 1 → n ≤ 16 →
      let p := if va.toNat / 2 ^ (12 + n) % 2 = 1 then e.odd else e.even
      (p.v = false → s.throughTlb va k = .exc (.tlbInvalid va k))
        ∧ (p.v = true → k = .store → p.d = false → s.throughTlb va k = .exc (.tlbModified va))
        ∧ (p.v = true → (k = .store → p.d = true) → s.cfg.psize ≤ 36 →
            ∃ q, s.throughTlb va k = .ok (q, p.c)
              ∧ q.toNat = (p.pfn.toNat / 2 ^ n * 2 ^ (12 + n) + va.toNat % 2 ^ (12 + n)) % 2 ^ s.cfg.psize)

/-- Memory's byte order in numbers, what a write stores and leaves, and that what is written reads back. (R63, R66,
R67, R78.) -/
def Obligations.MemoryBytes : Prop :=
  ∀ (s : State) (a : Nat),
    let big := s.cfg.bigEndianMem
    let b (n k : Nat) : Nat := (s.byteAt (a + if big then n - 1 - k else k)).toNat
    (s.halfAt a).toNat = b 2 0 + 256 * b 2 1
    ∧ (s.wordAt a).toNat = b 4 0 + 256 * b 4 1 + 256 ^ 2 * b 4 2 + 256 ^ 3 * b 4 3
    ∧ (s.dwordAt a).toNat = b 8 0 + 256 * b 8 1 + 256 ^ 2 * b 8 2 + 256 ^ 3 * b 8 3 + 256 ^ 4 * b 8 4
        + 256 ^ 5 * b 8 5 + 256 ^ 6 * b 8 6 + 256 ^ 7 * b 8 7
    ∧ (∀ v, TakesBytes s (s.setByte a v) a 1 (fun _ => v) ∧ KeepsAllBut [.memory] s (s.setByte a v))
    ∧ (∀ v, TakesBytes s (s.setHalf a v) a 2 (fun k => byteOf big 2 k v) ∧ (s.setHalf a v).halfAt a = v
        ∧ KeepsAllBut [.memory] s (s.setHalf a v))
    ∧ (∀ v, TakesBytes s (s.setWord a v) a 4 (fun k => byteOf big 4 k v) ∧ (s.setWord a v).wordAt a = v
        ∧ KeepsAllBut [.memory] s (s.setWord a v))
    ∧ (∀ v, TakesBytes s (s.setDword a v) a 8 (fun k => byteOf big 8 k v) ∧ (s.setDword a v).dwordAt a = v
        ∧ KeepsAllBut [.memory] s (s.setDword a v))
    ∧ (Memory.wf s.mem = true → ∀ (v : Byte) (h : Half) (w : Word) (d : DWord),
        Memory.wf (s.setByte a v).mem = true ∧ Memory.wf (s.setHalf a h).mem = true
          ∧ Memory.wf (s.setWord a w).mem = true ∧ Memory.wf (s.setDword a d).mem = true)

/-- LB, LBU, LH, LHU, LW and LL: what rt takes, when the access is located and accepted; LL starts the link. (R141,
R142, R143, R144, R145, R148, R84.) -/
def Obligations.LoadResults : Prop :=
  ∀ (s : State) (base rt : Reg) (off : Half) (pa : PAddr),
    let va := s.effAddr base off
    let qb := (if s.reverseEndian then pa ^^^ 3 else pa).toNat
    let qh := (if s.reverseEndian then pa ^^^ 2 else pa).toNat
    decode (wordI 32 base rt off) = .ok (.lb base rt off) ∧ decode (wordI 36 base rt off) = .ok (.lbu base rt off)
    ∧ decode (wordI 33 base rt off) = .ok (.lh base rt off) ∧ decode (wordI 37 base rt off) = .ok (.lhu base rt off)
    ∧ decode (wordI 35 base rt off) = .ok (.lw base rt off) ∧ decode (wordI 48 base rt off) = .ok (.ll base rt off)
    ∧ (s.locate va 1 .load = .ok pa → s.admits qb 1 .load = true →
        Loads (.lb base rt off) s rt ((s.byteAt qb).signExtend 32)
          ∧ Loads (.lbu base rt off) s rt ((s.byteAt qb).setWidth 32))
    ∧ (s.locate va 2 .load = .ok pa → s.admits qh 2 .load = true →
        Loads (.lh base rt off) s rt ((s.halfAt qh).signExtend 32)
          ∧ Loads (.lhu base rt off) s rt ((s.halfAt qh).setWidth 32))
    ∧ (s.locate va 4 .load = .ok pa → s.admits pa.toNat 4 .load = true →
        Loads (.lw base rt off) s rt (s.wordAt pa.toNat)
          ∧ Completes (.ll base rt off) s (fun t => TakesGpr s t rt (s.wordAt pa.toNat) ∧ AdvancesLoading s t rt
              ∧ KeepsAllBut [.gprs, .link] s t ∧ t.llBit = true ∧ t.llAddr = pa
              ∧ t.llVa = va ∧ t.llAttr = s.attribute va .load))

/-- LWL and LWR, byte by byte, in both byte orders, with and without reversal. (R146, R147, R155.) -/
def Obligations.UnalignedLoads : Prop :=
  ∀ (s : State) (base rt : Reg) (off : Half) (pa : PAddr),
    let va := s.effAddr base off
    let a := va.toNat % 4
    let m (k : Nat) : Byte := s.byteAt ((wordPlace pa).toNat + if s.reverseEndian then 3 - k else k)
    let old := s.readGpr rt
    decode (wordI 34 base rt off) = .ok (.lwl base rt off) ∧ decode (wordI 38 base rt off) = .ok (.lwr base rt off)
    ∧ (s.locate va 1 .load = .ok pa → s.admits (wordPlace pa).toNat 4 .load = true →
        (∃ v, Loads (.lwl base rt off) s rt v ∧ ∀ j, j < 4 → v.extractLsb' (24 - 8 * j) 8 =
            if s.bigEndianCore then (if a + j < 4 then m (a + j) else old.extractLsb' (24 - 8 * j) 8)
            else (if j ≤ a then m (a - j) else old.extractLsb' (24 - 8 * j) 8))
        ∧ ∃ v, Loads (.lwr base rt off) s rt v ∧ ∀ j, j < 4 → v.extractLsb' (8 * j) 8 =
            if s.bigEndianCore then (if j ≤ a then m (a - j) else old.extractLsb' (8 * j) 8)
            else (if a + j < 4 then m (a + j) else old.extractLsb' (8 * j) 8))

/-- SB, SH and SW: which bytes change, at the translated address, when the access is located and accepted. (R149,
R150, R151.) -/
def Obligations.StoreResults : Prop :=
  ∀ (s : State) (base rt : Reg) (off : Half) (pa : PAddr),
    let va := s.effAddr base off
    let qb := (if s.reverseEndian then pa ^^^ 3 else pa).toNat
    let qh := (if s.reverseEndian then pa ^^^ 2 else pa).toNat
    let v := s.srcRt rt
    let big := s.cfg.bigEndianMem
    decode (wordI 40 base rt off) = .ok (.sb base rt off) ∧ decode (wordI 41 base rt off) = .ok (.sh base rt off)
    ∧ decode (wordI 43 base rt off) = .ok (.sw base rt off)
    ∧ (s.locate va 1 .store = .ok pa → s.admits qb 1 .store = true →
        Stores (.sb base rt off) s qb 1 (fun _ => v.extractLsb' 0 8))
    ∧ (s.locate va 2 .store = .ok pa → s.admits qh 2 .store = true →
        Stores (.sh base rt off) s qh 2 (fun k => byteOf big 2 k (v.extractLsb' 0 16)))
    ∧ (s.locate va 4 .store = .ok pa → s.admits pa.toNat 4 .store = true →
        Stores (.sw base rt off) s pa.toNat 4 (fun k => byteOf big 4 k v))

/-- SWL and SWR, byte by byte, in both byte orders, with and without reversal. (R152, R153, R155.) -/
def Obligations.UnalignedStores : Prop :=
  ∀ (s : State) (base rt : Reg) (off : Half) (pa : PAddr),
    let va := s.effAddr base off
    let a := va.toNat % 4
    let w := (wordPlace pa).toNat
    let v := s.srcRt rt
    let num (o : Nat) : Nat := if s.reverseEndian then 3 - o else o
    decode (wordI 42 base rt off) = .ok (.swl base rt off) ∧ decode (wordI 46 base rt off) = .ok (.swr base rt off)
    ∧ (s.locate va 1 .store = .ok pa → s.admits w 4 .store = true →
        Stores (.swl base rt off) s w 4 (fun o =>
            if s.bigEndianCore then
              (if a ≤ num o then v.extractLsb' (24 - 8 * (num o - a)) 8 else s.byteAt (w + o))
            else (if num o ≤ a then v.extractLsb' (24 - 8 * (a - num o)) 8 else s.byteAt (w + o)))
        ∧ Stores (.swr base rt off) s w 4 (fun o =>
            if s.bigEndianCore then (if num o ≤ a then v.extractLsb' (8 * (a - num o)) 8 else s.byteAt (w + o))
            else (if a ≤ num o then v.extractLsb' (8 * (num o - a)) 8 else s.byteAt (w + o))))

/-- SC: success stores the word and gives 1, failure stores nothing and gives 0; the link ends either way. That SC at
another virtual or physical address or with another cache-coherency attribute than LL's completes, one way or the
other, is the model's choice (log 20): R84(c) calls the result undefined and U10 refuses. (R154, R84.) -/
def Obligations.StoreConditional : Prop :=
  ∀ (s : State) (base rt : Reg) (off : Half) (pa : PAddr),
    let va := s.effAddr base off
    let done (t : State) : Prop := TakesGpr s t rt 1
      ∧ TakesBytes s t pa.toNat 4 (fun k => byteOf s.cfg.bigEndianMem 4 k (s.srcRt rt))
    let failed (t : State) : Prop := TakesGpr s t rt 0 ∧ ∀ a, t.byteAt a = s.byteAt a
    let ended (t : State) : Prop := t.llBit = false ∧ KeepsLink s t ∧ Advances s t
      ∧ KeepsAllBut [.gprs, .memory, .link] s t
    decode (wordI 56 base rt off) = .ok (.sc base rt off)
    ∧ (s.locate va 4 .store = .ok pa →
        (s.llBit = false → Completes (.sc base rt off) s (fun t => failed t ∧ ended t))
        ∧ (s.llBit = true → va = s.llVa → pa = s.llAddr → s.attribute va .store = s.llAttr →
            s.linkExtentOk = true → s.admits pa.toNat 4 .store = true →
            Completes (.sc base rt off) s (fun t => done t ∧ ended t))
        ∧ (s.llBit = true → s.admits pa.toNat 4 .store = true →
            Completes (.sc base rt off) s (fun t => (done t ∨ failed t) ∧ ended t)))

/-- The exceptions of every CPU load and store: alignment, segment, TLB, bus, each with its code, vector and address.
The model's choices: that several matches stop the machine (log 21; R72 and U12 call that case undefined), and when an
SC outside the conditions of R84 makes its access (State.scSucceeds, log 20; U10, U11). (R69, R72, R76, R80, R341,
R342, R343, R344, R351.) -/
def Obligations.AccessFaults : Prop :=
  ∀ (s : State) (base rt : Reg) (off : Half),
    ∀ p ∈ ([(.lb base rt off, 1, .load, fun pa => if s.reverseEndian then pa ^^^ 3 else pa, 1, fun _ => true),
        (.lbu base rt off, 1, .load, fun pa => if s.reverseEndian then pa ^^^ 3 else pa, 1, fun _ => true),
        (.lh base rt off, 2, .load, fun pa => if s.reverseEndian then pa ^^^ 2 else pa, 2, fun _ => true),
        (.lhu base rt off, 2, .load, fun pa => if s.reverseEndian then pa ^^^ 2 else pa, 2, fun _ => true),
        (.lw base rt off, 4, .load, id, 4, fun _ => true),
        (.ll base rt off, 4, .load, id, 4, fun _ => true),
        (.lwl base rt off, 1, .load, wordPlace, 4, fun _ => true),
        (.lwr base rt off, 1, .load, wordPlace, 4, fun _ => true),
        (.sb base rt off, 1, .store, fun pa => if s.reverseEndian then pa ^^^ 3 else pa, 1, fun _ => true),
        (.sh base rt off, 2, .store, fun pa => if s.reverseEndian then pa ^^^ 2 else pa, 2, fun _ => true),
        (.sw base rt off, 4, .store, id, 4, fun _ => true),
        (.swl base rt off, 1, .store, wordPlace, 4, fun _ => true),
        (.swr base rt off, 1, .store, wordPlace, 4, fun _ => true),
        (.sc base rt off, 4, .store, id, 4, s.scSucceeds (s.effAddr base off))] :
          List (Instr × Nat × AccessKind × (PAddr → PAddr) × Nat × (PAddr → Bool))),
      AccessTraps p.1 s (s.effAddr base off) p.2.1 p.2.2.1 p.2.2.2.1 p.2.2.2.2.1 p.2.2.2.2.2

/-- The twelve conditional branches without link: condition, target, delay slot, nullification. (R225, R226, R227,
R228, R229, R230, R233, R234, R235, R236, R237, R238.) -/
def Obligations.BranchResults : Prop :=
  ∀ (s : State) (rs rt : Reg) (off : Half), s.inDelaySlot = false →
    let a := s.srcRs rs
    let b := s.srcRt rt
    (∀ p ∈ ([(.beq rs rt off, wordI 4 rs rt off, false, decide (a = b)),
        (.bne rs rt off, wordI 5 rs rt off, false, decide (a ≠ b)),
        (.blez rs off, wordI 6 rs 0 off, false, decide (a.toInt ≤ 0)),
        (.bgtz rs off, wordI 7 rs 0 off, false, decide (0 < a.toInt)),
        (.bltz rs off, wordI 1 rs 0 off, false, decide (a.toInt < 0)),
        (.bgez rs off, wordI 1 rs 1 off, false, decide (0 ≤ a.toInt)),
        (.beql rs rt off, wordI 20 rs rt off, true, decide (a = b)),
        (.bnel rs rt off, wordI 21 rs rt off, true, decide (a ≠ b)),
        (.blezl rs off, wordI 22 rs 0 off, true, decide (a.toInt ≤ 0)),
        (.bgtzl rs off, wordI 23 rs 0 off, true, decide (0 < a.toInt)),
        (.bltzl rs off, wordI 1 rs 2 off, true, decide (a.toInt < 0)),
        (.bgezl rs off, wordI 1 rs 3 off, true, decide (0 ≤ a.toInt))] : List (Instr × Word × Bool × Bool)),
      decode p.2.1 = .ok p.1
        ∧ Completes p.1 s (fun t => AfterBranch s t p.2.2.1 p.2.2.2 (branchTarget s.pc off) ∧ KeepsAllBut [] s t))
    ∧ decode (wordI 4 0 0 off) = .ok (.beq 0 0 off)
    ∧ ∀ i ∈ ([.b off, .beq 0 0 off] : List Instr),
        Completes i s (fun t => AfterBranch s t false true (branchTarget s.pc off) ∧ KeepsAllBut [] s t)

/-- The linking branches and the jumps: return address, condition, target, and the forms refused. That a linking
branch with rs = 31 and JALR with rs = rd are refused is the model's choice (log 18): R221 and R246 call their result
unpredictable. (R231, R232, R239, R240, R242, R243, R244, R245, R246, R220, R221.) -/
def Obligations.LinkAndJump : Prop :=
  ∀ (s : State) (rs rd : Reg) (off : Half) (idx : BitVec 26), s.inDelaySlot = false →
    let a := s.srcRs rs
    (∀ p ∈ ([(.bltzal rs off, wordI 1 rs 16 off, false, decide (a.toInt < 0)),
        (.bgezal rs off, wordI 1 rs 17 off, false, decide (0 ≤ a.toInt)),
        (.bltzall rs off, wordI 1 rs 18 off, true, decide (a.toInt < 0)),
        (.bgezall rs off, wordI 1 rs 19 off, true, decide (0 ≤ a.toInt))] : List (Instr × Word × Bool × Bool)),
      decode p.2.1 = .ok p.1
        ∧ (rs ≠ 31 → Completes p.1 s (fun t => TakesGpr s t 31 (s.pc + 8)
            ∧ AfterBranch s t p.2.2.1 p.2.2.2 (branchTarget s.pc off) ∧ KeepsAllBut [.gprs] s t))
        ∧ (rs = 31 → Refuses p.1 s .linkRegisterIsSource))
    ∧ decode (wordI 1 0 17 off) = .ok (.bgezal 0 off)
    ∧ (∀ i ∈ ([.bal off, .bgezal 0 off] : List Instr), Completes i s (fun t => TakesGpr s t 31 (s.pc + 8)
        ∧ AfterBranch s t false true (branchTarget s.pc off) ∧ KeepsAllBut [.gprs] s t))
    ∧ decode (wordJ 2 idx) = .ok (.j idx) ∧ decode (wordJ 3 idx) = .ok (.jal idx)
    ∧ decode (wordR 0 rs 0 0 0 8) = .ok (.jr rs) ∧ decode (wordR 0 rs 0 rd 0 9) = .ok (.jalr rs rd)
    ∧ Completes (.j idx) s (fun t => AfterBranch s t false true (jumpTarget s.pc idx) ∧ KeepsAllBut [] s t)
    ∧ Completes (.jal idx) s (fun t => TakesGpr s t 31 (s.pc + 8)
        ∧ AfterBranch s t false true (jumpTarget s.pc idx) ∧ KeepsAllBut [.gprs] s t)
    ∧ Completes (.jr rs) s (fun t => AfterBranch s t false true a ∧ KeepsAllBut [] s t)
    ∧ (rs ≠ rd → Completes (.jalr rs rd) s (fun t => TakesGpr s t rd (s.pc + 8)
        ∧ AfterBranch s t false true a ∧ KeepsAllBut [.gprs] s t))
    ∧ (rs = rd → Refuses (.jalr rs rd) s .linkRegisterIsSource)

/-- Every branch, jump, ERET and WAIT in a delay slot is refused by name. The refusal, and that it comes before
Coprocessor Unusable, is the model's choice (log 16): R29 and U1 call the result unpredictable and give it no effect.
(R29, R222, R323.) -/
def Obligations.ControlInDelaySlotRefused : Prop :=
  ∀ (s : State) (rs rt rd : Reg) (off : Half) (idx : BitVec 26) (cc : Cc) (code : BitVec 19), s.inDelaySlot = true →
    ∀ i ∈ ([.beq rs rt off, .bne rs rt off, .blez rs off, .bgtz rs off, .bltz rs off, .bgez rs off, .beql rs rt off,
        .bnel rs rt off, .blezl rs off, .bgtzl rs off, .bltzl rs off, .bgezl rs off, .bltzal rs off, .bgezal rs off,
        .bltzall rs off, .bgezall rs off, .b off, .bal off, .j idx, .jal idx, .jr rs, .jalr rs rd, .bc1f cc off,
        .bc1fl cc off, .bc1t cc off, .bc1tl cc off, .eret, .wait code] : List Instr),
      Refuses i s .controlInDelaySlot

/-- SYSCALL and BREAK take their exceptions for every code; SYNC changes nothing. That SYNC has no effect rests on a
decision of the spec (R252, D35) and on the model's choice that ordering seen by others is out of the model (log 49).
(R250, R251, R252.) -/
def Obligations.SystemCallBreakSync : Prop :=
  ∀ (s : State) (code : BitVec 20) (stype : BitVec 5),
    (∀ p ∈ ([(.syscall code, wordCode20 code 12, 8), (.brk code, wordCode20 code 13, 9)] :
        List (Instr × Word × BitVec 5)),
      decode p.2.1 = .ok p.1 ∧ Completes p.1 s (fun t => EntersPlain s t p.2.2))
    ∧ decode (wordR 0 0 0 0 stype 15) = .ok (.sync stype)
    ∧ Completes (.sync stype) s (fun t => Advances s t ∧ KeepsAllBut [] s t)

/-- The twelve trap instructions trap exactly when their relation holds, and otherwise do nothing. (R254, R255, R256,
R257, R258, R259, R260, R261, R262, R263, R264, R265.) -/
def Obligations.TrapResults : Prop :=
  ∀ (s : State) (rs rt : Reg) (code : BitVec 10) (imm : Half),
    let a := s.srcRs rs
    let b := s.srcRt rt
    let x : Word := imm.signExtend 32
    ∀ p ∈ ([(.tge rs rt code, wordCode10 rs rt code 48, decide (b.toInt ≤ a.toInt)),
        (.tgeu rs rt code, wordCode10 rs rt code 49, decide (b.toNat ≤ a.toNat)),
        (.tlt rs rt code, wordCode10 rs rt code 50, decide (a.toInt < b.toInt)),
        (.tltu rs rt code, wordCode10 rs rt code 51, decide (a.toNat < b.toNat)),
        (.teq rs rt code, wordCode10 rs rt code 52, decide (a = b)),
        (.tne rs rt code, wordCode10 rs rt code 54, decide (a ≠ b)),
        (.tgei rs imm, wordI 1 rs 8 imm, decide (x.toInt ≤ a.toInt)),
        (.tgeiu rs imm, wordI 1 rs 9 imm, decide (x.toNat ≤ a.toNat)),
        (.tlti rs imm, wordI 1 rs 10 imm, decide (a.toInt < x.toInt)),
        (.tltiu rs imm, wordI 1 rs 11 imm, decide (a.toNat < x.toNat)),
        (.teqi rs imm, wordI 1 rs 12 imm, decide (a = x)),
        (.tnei rs imm, wordI 1 rs 14 imm, decide (a ≠ x))] : List (Instr × Word × Bool)),
      decode p.2.1 = .ok p.1
        ∧ (p.2.2 = true → Completes p.1 s (fun t => EntersPlain s t 13))
        ∧ (p.2.2 = false → Completes p.1 s (fun t => Advances s t ∧ KeepsAllBut [] s t))

/-- ERET: the return address, the status bit it clears, the lost link; unusable in user mode, refused in a slot. The
refusal in a delay slot, before the check of the coprocessor, is the model's choice (log 16): R29 and R266 call that
case undefined. (R266, R29, R348.) -/
def Obligations.EretResults : Prop :=
  ∀ s : State,
    decode (wordCo 0 24) = .ok .eret
    ∧ (s.inDelaySlot = true → Refuses .eret s .controlInDelaySlot)
    ∧ (s.inDelaySlot = false → s.cp0Usable = false → Completes .eret s (fun t => EntersUnusable s t 0))
    ∧ (s.inDelaySlot = false → s.cp0Usable = true → Completes .eret s (fun t =>
        (s.cp0.erl = true → t.pc = s.cp0.errorEpc ∧ t.cp0 = { s.cp0 with status := s.cp0.status &&& 0xFFFFFFFB })
          ∧ (s.cp0.erl = false → t.pc = s.cp0.epc ∧ t.cp0 = { s.cp0 with status := s.cp0.status &&& 0xFFFFFFFD })
          ∧ t.npc = t.pc + 4 ∧ t.inDelaySlot = false ∧ t.loadPending = none ∧ t.llBit = false ∧ KeepsLink s t
          ∧ KeepsAllBut [.link, .cp0] s t))

/-- MFC0: what each register number reads, with a load delay; Random names a usable entry. That MFC0 of a register
that does not exist completes with a free value is the model's choice (log 19, PRESUMED): R270 and U9 refuse it. So is
the range of the draw of Random (log 36, DEDUCED). (R270, R272, R39, R40.) -/
def Obligations.Cp0Reads : Prop :=
  ∀ (s : State) (rt rd : Reg), s.Inv → s.cp0Usable = true →
    decode (wordR 16 0 rt rd 0 0) = .ok (.mfc0 rt rd)
    ∧ (∀ p ∈ ([(0, s.cp0.index), (2, s.cp0.entryLo0), (3, s.cp0.entryLo1), (5, s.cp0.pageMask), (6, s.cp0.wired),
        (8, s.cp0.badVAddr), (10, s.cp0.entryHi), (12, s.cp0.status), (13, s.cp0.cause), (14, s.cp0.epc),
        (15, 0#16 ++ s.cfg.pridLow16), (16, s.cp0.config), (30, s.cp0.errorEpc)] : List (Reg × Word)),
        Completes (.mfc0 rt p.1) s (fun t => TakesGpr s t rt p.2 ∧ AdvancesLoading s t rt ∧ KeepsAllBut [.gprs] s t))
    ∧ (s.cfg.hasTimer = true → ∀ p ∈ ([(9, s.cp0.count), (11, s.cp0.compare)] : List (Reg × Word)),
        Completes (.mfc0 rt p.1) s (fun t => TakesGpr s t rt p.2 ∧ AdvancesLoading s t rt ∧ KeepsAllBut [.gprs] s t))
    ∧ Completes (.mfc0 rt 1) s (fun t => ∃ v : Word, v.toNat < s.tlbEntries
        ∧ (s.cp0.wired.toNat < s.tlbEntries → s.cp0.wired.toNat ≤ v.toNat) ∧ TakesGpr s t rt v
        ∧ t.cp0 = { s.cp0 with random := v } ∧ AdvancesLoading s t rt ∧ KeepsAllBut [.gprs, .cp0] s t)
    ∧ (rd ≠ 1 → Completes (.mfc0 rt rd) s (fun t => (∃ v, TakesGpr s t rt v) ∧ AdvancesLoading s t rt
        ∧ KeepsAllBut [.gprs] s t))
    ∧ ∃ n, s.indexMask.toNat + 1 = 2 ^ n ∧ s.tlbEntries ≤ 2 ^ n ∧ (n ≠ 0 → 2 ^ (n - 1) < s.tlbEntries)

/-- MTC0: the bits each register takes, the registers that ignore it, and the forms refused. The model's choices:
Count takes every bit and Context does not exist (log 19, PRESUMED), a write of Compare withdraws the timer's request
(log 33, R368), a register that does not exist and a reserved KSU are refused (log 19, U9). (R271, R272, R365, R44,
R46, R368.) -/
def Obligations.Cp0Writes : Prop :=
  ∀ (s : State) (rt rd : Reg), s.cp0Usable = true →
    let v := s.srcRt rt
    let takes (d : Reg) (c : Cp0) : Prop :=
      Completes (.mtc0 rt d) s (fun t => t.cp0 = c ∧ Advances s t ∧ KeepsAllBut [.cp0] s t)
    decode (wordR 16 4 rt rd 0 0) = .ok (.mtc0 rt rd)
    ∧ (∀ p ∈ ([(0, { s.cp0 with index := (s.cp0.index &&& ~~~s.indexMask) ||| (v &&& s.indexMask) }),
        (1, s.cp0), (2, { s.cp0 with entryLo0 := v &&& s.entryLoMask }),
        (3, { s.cp0 with entryLo1 := v &&& s.entryLoMask }), (5, { s.cp0 with pageMask := v &&& 0x1FFFE000 }),
        (6, { s.cp0 with wired := v &&& s.indexMask }), (8, s.cp0), (10, { s.cp0 with entryHi := v &&& 0xFFFFE0FF }),
        (13, { s.cp0 with cause := (s.cp0.cause &&& 0xFF3FFCFF) ||| (v &&& 0x00C00300) }),
        (14, { s.cp0 with epc := v }), (15, s.cp0),
        (16, { s.cp0 with config := (s.cp0.config &&& 0xFFFFFFF8) ||| (v &&& 7) }),
        (30, { s.cp0 with errorEpc := v })] : List (Reg × Cp0)), takes p.1 p.2)
    ∧ (v.getLsbD 3 = false → takes 12 { s.cp0 with status := v &&& 0xFA78FF1F })
    ∧ (v.getLsbD 3 = true → Refuses (.mtc0 rt 12) s .statusModeReserved)
    ∧ (s.cfg.hasTimer = true → takes 9 { s.cp0 with count := v }
        ∧ takes 11 { s.cp0 with compare := v, timerRequest := false })
    ∧ (rd.toNat ∈ [4, 7, 17, 18, 19, 20, 21, 22, 23, 24, 25, 26, 27, 28, 29, 31] ∨
        (rd.toNat ∈ [9, 11] ∧ s.cfg.hasTimer = false) → Refuses (.mtc0 rt rd) s .cp0RegisterAbsent)
    ∧ (20 ≤ s.cfg.psize → s.cfg.psize ≤ 36 → ∀ j, j < 32 →
        s.entryLoMask.getLsbD j = decide (j < s.cfg.psize - 6))

/-- TLBWI, TLBWR, TLBR and TLBP: the entry written, the registers read, the index found, and their stops. The model's
choices: after a TLBP with several matches Index is free (log 21; undefined by R384 and U12), TLBR's bits under the
mask are free (log 37), the range of the draw (log 36), and the stops (logs 22, 23). (R273, R274, R275, R276, R49,
R40, R384.) -/
def Obligations.TlbInstructions : Prop :=
  ∀ s : State, s.Inv → s.cp0Usable = true →
    let c := s.cp0
    let page (w : Word) : TlbPage := ⟨w.extractLsb' 6 24, w.extractLsb' 3 3, w.getLsbD 2, w.getLsbD 1⟩
    let e : TlbEntry := ⟨c.pageMask.extractLsb' 13 16, c.entryHi.extractLsb' 13 19,
      c.entryLo0.getLsbD 0 && c.entryLo1.getLsbD 0, c.entryHi.extractLsb' 0 8, page c.entryLo0, page c.entryLo1⟩
    let i := (c.index &&& s.indexMask).toNat
    let legal := c.pageMask.extractLsb' 13 16 ∈ s.cfg.pageMaskLegal
    let shows (m : BitVec 16) (p : TlbPage) (g : Bool) (w : Word) : Prop :=
      w.extractLsb' 3 3 = p.c ∧ w.getLsbD 2 = p.d ∧ w.getLsbD 1 = p.v ∧ w.getLsbD 0 = g ∧ w.extractLsb' 30 2 = 0
        ∧ ∀ j, j < s.cfg.psize - 12 → j < 24 → m.getLsbD j = false → w.getLsbD (6 + j) = p.pfn.getLsbD j
    let hit (k : Nat) : Prop := ∃ x, s.tlb[k]? = some x ∧ (x.g = true ∨ x.asid = c.entryHi.extractLsb' 0 8)
      ∧ ∀ j, j < 19 → x.mask.getLsbD j = false → x.vpn2.getLsbD j = c.entryHi.getLsbD (13 + j)
    decode (wordCo 0 1) = .ok .tlbr ∧ decode (wordCo 0 2) = .ok .tlbwi ∧ decode (wordCo 0 6) = .ok .tlbwr
    ∧ decode (wordCo 0 8) = .ok .tlbp
    ∧ (i < s.tlbEntries → legal → Completes .tlbwi s (fun t =>
        t.tlb = s.tlb.set i e ∧ Advances s t ∧ KeepsAllBut [.tlb] s t))
    ∧ (legal → Completes .tlbwr s (fun t => ∃ r : Word, r.toNat < s.tlbEntries
        ∧ (c.wired.toNat < s.tlbEntries → c.wired.toNat ≤ r.toNat) ∧ t.tlb = s.tlb.set r.toNat e
        ∧ t.cp0 = { c with random := r } ∧ Advances s t ∧ KeepsAllBut [.tlb, .cp0] s t))
    ∧ (∀ x, s.tlb[i]? = some x → Completes .tlbr s (fun t => Advances s t ∧ KeepsAllBut [.cp0] s t
        ∧ ∃ hi lo0 lo1, t.cp0 = { c with
            pageMask := 0#3 ++ x.mask ++ 0#13, entryHi := hi, entryLo0 := lo0, entryLo1 := lo1 }
          ∧ hi.extractLsb' 0 8 = x.asid ∧ hi.extractLsb' 8 5 = 0
          ∧ (∀ j, j < 19 → x.mask.getLsbD j = false → hi.getLsbD (13 + j) = x.vpn2.getLsbD j)
          ∧ shows x.mask x.even x.g lo0 ∧ shows x.mask x.odd x.g lo1))
    ∧ Completes .tlbp s (fun t => Advances s t ∧ KeepsAllBut [.cp0] s t
        ∧ (∃ x, t.cp0 = { c with index := x })
        ∧ (∀ k, hit k → (∀ l, hit l → l = k) → t.cp0 = { c with index := BitVec.ofNat 32 k })
        ∧ ((∀ k, ¬ hit k) → t.cp0 = { c with index := 0x80000000 }))
    ∧ (s.tlbEntries ≤ i → Stops .tlbr s .tlbIndexOutOfRange ∧ Stops .tlbwi s .tlbIndexOutOfRange)
    ∧ (¬ legal → (i < s.tlbEntries → Stops .tlbwi s .pageMaskUnsupported) ∧ Stops .tlbwr s .pageMaskUnsupported)

/-- WAIT stops the core; a stopped core changes only with its inputs until an unmasked line is pending. That WAIT
stops the core, and that a stopped core never wakes spuriously, is the model's choice (log 32): R277 and D28 allow a
no-op as well. (R277, R364.) -/
def Obligations.WaitResults : Prop :=
  ∀ (s : State) (code : BitVec 19),
    decode (wordCo code 32) = .ok (.wait code)
    ∧ (s.inDelaySlot = false → s.cp0Usable = true → Completes (.wait code) s (fun t => t.waiting = true
        ∧ t.cfg = s.cfg ∧ t.env = s.env ∧ t.draws = s.draws ∧ Advances s t ∧ KeepsAllBut [.rest] s t))
    ∧ (s.waiting = true → s.input.event = .none →
        let u := s.sample
        let common := u.cp0.cause.extractLsb' 8 8 &&& u.cp0.status.extractLsb' 8 8
        (common = 0 → step s = .next u ∧ u.pc = s.pc ∧ u.npc = s.npc ∧ u.waiting = true)
          ∧ (common ≠ 0 → u.cp0.interruptTaken = false → step s = runInstr { u with waiting := false }))

/-- Every instruction of an unusable coprocessor takes Coprocessor Unusable with its unit, and nothing else. (R348,
R280, R366.) -/
def Obligations.CoprocessorUnusable : Prop :=
  ∀ (s : State) (i : Instr), ¬ (s.inDelaySlot = true ∧ notInSlot i = true) →
    (usesCp0 i = true → s.userMode = true → s.cp0.cu0 = false → Completes i s (fun t => EntersUnusable s t 0))
    ∧ (usesCp1 i = true → s.cp0.cu1 = false → Completes i s (fun t => EntersUnusable s t 1))
    ∧ (s.userMode = true ↔ s.cp0.status.extractLsb' 3 2 = 2 ∧ s.cp0.status.extractLsb' 1 2 = 0)
    ∧ (s.cp0Usable = true ↔ s.userMode = false ∨ s.cp0.status.getLsbD 28 = true)
    ∧ (s.cp1Usable = true ↔ s.cp0.status.getLsbD 29 = true)

/-- LWC1, LDC1, SWC1 and SDC1: the registers and bytes they move, with no load delay, and their exceptions. No load
delay is R281, the vectors are R351. That several TLB matches stop the machine is the model's choice (log 21): R72 and
U12 call that case undefined. (R282, R283, R284, R285, R69, R72, R76, R80, R341, R342, R343, R344.) -/
def Obligations.FpuLoadStore : Prop :=
  ∀ (s : State) (base ft : Reg) (off : Half) (pa : PAddr), s.cp1Usable = true →
    let va := s.effAddr base off
    let big := s.cfg.bigEndianMem
    let keeps (t : State) : Prop := Advances s t ∧ KeepsAllBut [.fprs, .link] s t ∧ KeepsLink s t
      ∧ (t.llBit = true → s.llBit = true)
    decode (wordI 49 base ft off) = .ok (.lwc1 base ft off) ∧ decode (wordI 53 base ft off) = .ok (.ldc1 base ft off)
    ∧ decode (wordI 57 base ft off) = .ok (.swc1 base ft off) ∧ decode (wordI 61 base ft off) = .ok (.sdc1 base ft off)
    ∧ (s.locate va 4 .load = .ok pa → s.admits pa.toNat 4 .load = true →
        Completes (.lwc1 base ft off) s (fun t => TakesFpr s t ft (s.wordAt pa.toNat) .rawWord ∧ keeps t))
    ∧ (s.locate va 4 .store = .ok pa → s.admits pa.toNat 4 .store = true →
        Stores (.swc1 base ft off) s pa.toNat 4 (fun k => byteOf big 4 k (s.readFpr ft)))
    ∧ AccessTraps (.lwc1 base ft off) s va 4 .load id 4 (fun _ => true)
    ∧ AccessTraps (.swc1 base ft off) s va 4 .store id 4 (fun _ => true)
    ∧ (ft.getLsbD 0 = false →
        (s.locate va 8 .load = .ok pa → s.admits pa.toNat 8 .load = true →
          Completes (.ldc1 base ft off) s (fun t => TakesFprPair s t ft (s.dwordAt pa.toNat) .rawDouble ∧ keeps t))
        ∧ (s.locate va 8 .store = .ok pa → s.admits pa.toNat 8 .store = true →
          Stores (.sdc1 base ft off) s pa.toNat 8 (fun k => byteOf big 8 k (s.readFpr (ft + 1) ++ s.readFpr ft)))
        ∧ AccessTraps (.ldc1 base ft off) s va 8 .load id 8 (fun _ => true)
        ∧ AccessTraps (.sdc1 base ft off) s va 8 .store id 8 (fun _ => true))

/-- MFC1, MTC1, CFC1 and CTC1: raw words and the five control registers, with CTC1's traps and refusals. That CFC1 of
a register that does not exist completes with a free value is the model's choice (log 24): R288 and U16 refuse it. So
is the refusal of CTC1 in its unpredictable cases (log 24, R289). (R281, R286, R287, R288, R289.) -/
def Obligations.FpuTransfers : Prop :=
  ∀ (s : State) (rt fs : Reg), s.cp1Usable = true →
    let w := s.fcsr
    let v := s.srcRt rt
    decode (wordR 17 0 rt fs 0 0) = .ok (.mfc1 rt fs) ∧ decode (wordR 17 4 rt fs 0 0) = .ok (.mtc1 rt fs)
    ∧ decode (wordR 17 2 rt fs 0 0) = .ok (.cfc1 rt fs) ∧ decode (wordR 17 6 rt fs 0 0) = .ok (.ctc1 rt fs)
    ∧ Completes (.mfc1 rt fs) s (fun t => TakesGpr s t rt (s.readFpr fs) ∧ Advances s t ∧ KeepsAllBut [.gprs] s t)
    ∧ Completes (.mtc1 rt fs) s (fun t => TakesFpr s t fs v .rawWord ∧ Advances s t ∧ KeepsAllBut [.fprs] s t)
    ∧ (∀ p ∈ ([(0, s.cfg.firValue), (25, 0#24 ++ w.extractLsb' 25 7 ++ w.extractLsb' 23 1),
        (26, 0#14 ++ w.extractLsb' 12 6 ++ 0#5 ++ w.extractLsb' 2 5 ++ 0#2),
        (28, 0#20 ++ w.extractLsb' 7 5 ++ 0#4 ++ w.extractLsb' 24 1 ++ w.extractLsb' 0 2),
        (31, w.extractLsb' 23 9 ++ 0#5 ++ w.extractLsb' 0 18)] : List (Reg × Word)),
        Completes (.cfc1 rt p.1) s (fun t => TakesGpr s t rt p.2 ∧ Advances s t ∧ KeepsAllBut [.gprs] s t))
    ∧ Completes (.cfc1 rt fs) s (fun t => (∃ x, TakesGpr s t rt x) ∧ Advances s t ∧ KeepsAllBut [.gprs] s t)
    ∧ (∀ p ∈ ([(25, decide (v.extractLsb' 8 24 = 0),
          v.extractLsb' 1 7 ++ w.extractLsb' 24 1 ++ v.extractLsb' 0 1 ++ w.extractLsb' 0 23),
        (26, decide (v.extractLsb' 18 5 = 0),
          w.extractLsb' 18 14 ++ v.extractLsb' 12 6 ++ w.extractLsb' 7 5 ++ v.extractLsb' 2 5 ++ w.extractLsb' 0 2),
        (28, decide (v.extractLsb' 18 5 = 0),
          w.extractLsb' 25 7 ++ v.extractLsb' 2 1 ++ w.extractLsb' 12 12 ++ v.extractLsb' 7 5 ++ w.extractLsb' 2 5
            ++ v.extractLsb' 0 2),
        (31, decide (v.extractLsb' 18 5 = 0), v)] : List (Reg × Bool × Word)),
        let x := p.2.2
        let trap := x.getLsbD 17 = true ∨ x.extractLsb' 12 5 &&& x.extractLsb' 7 5 ≠ 0
        (p.2.1 = false → Refuses (.ctc1 rt p.1) s .ctc1Unpredictable)
          ∧ (p.2.1 = true → trap → Completes (.ctc1 rt p.1) s (fun t => EntersPlain { s with fcsr := x } t 15))
          ∧ (p.2.1 = true → ¬ trap → Completes (.ctc1 rt p.1) s (fun t =>
              t.fcsr = x ∧ Advances s t ∧ KeepsAllBut [.fcsr] s t)))
    ∧ (fs.toNat ∉ [25, 26, 28, 31] → Refuses (.ctc1 rt fs) s .ctc1Unpredictable)

/-- The formatted moves: the bits copied where the condition holds, fd kept in the format where it does not. The
model's choices: when FPUnimplemented is asked and about which values (log 28), and what an operand in another format
is (log 25). (R290, R291, R292, R293, R294, R295, R302, R53.) -/
def Obligations.FpuMoves : Prop :=
  ∀ (s : State) (rt fs fd : Reg) (cc : Cc), s.cp1Usable = true →
    let v := s.srcRt rt
    let bit := s.fcsr.getLsbD (if cc = 0 then 23 else 24 + cc.toNat)
    let cv : BitVec 64 := (BitVec.ofBool bit).setWidth 64
    let rv : BitVec 64 := v.setWidth 64
    let old (fmt : Fmt) : BitVec 64 := s.fpOperand .fprSecond fd fmt
    ∀ p ∈ ([(.movS fs fd, wordR 17 16 0 fs fd 6, .s, true, 0, 0), (.movD fs fd, wordR 17 17 0 fs fd 6, .d, true, 0, 0),
        (.movfS cc fs fd, wordR 17 16 (cc ++ 0#2) fs fd 17, .s, !bit, cv, old .s),
        (.movfD cc fs fd, wordR 17 17 (cc ++ 0#2) fs fd 17, .d, !bit, cv, old .d),
        (.movtS cc fs fd, wordR 17 16 (cc ++ 1#2) fs fd 17, .s, bit, cv, old .s),
        (.movtD cc fs fd, wordR 17 17 (cc ++ 1#2) fs fd 17, .d, bit, cv, old .d),
        (.movnS rt fs fd, wordR 17 16 rt fs fd 19, .s, decide (v ≠ 0), rv, old .s),
        (.movnD rt fs fd, wordR 17 17 rt fs fd 19, .d, decide (v ≠ 0), rv, old .d),
        (.movzS rt fs fd, wordR 17 16 rt fs fd 18, .s, decide (v = 0), rv, old .s),
        (.movzD rt fs fd, wordR 17 17 rt fs fd 18, .d, decide (v = 0), rv, old .d)] :
          List (Instr × Word × Fmt × Bool × BitVec 64 × BitVec 64)),
      let fmt := p.2.2.1
      let moves := p.2.2.2.1
      let listed := s.fpListed p.1 (s.fpOperand .fprFirst fs fmt) p.2.2.2.2.1 p.2.2.2.2.2
      decode p.2.1 = .ok p.1
        ∧ (s.holds fs fmt = true → s.fpOperand .fprFirst fs fmt = s.valueFpr fs fmt)
        ∧ (s.holds fd fmt = true → s.fpOperand .fprSecond fd fmt = s.valueFpr fd fmt)
        ∧ (fmtSuits fmt fs = true → fmtSuits fmt fd = true →
          (listed = true → Completes p.1 s (fun t =>
              ∃ c, FcsrAfter s.fcsr c .justUnimplemented false ∧ EntersPlain { s with fcsr := c } t 15))
          ∧ (listed = false → moves = true → s.holds fs fmt = true → Completes p.1 s (fun t =>
              TakesFormat s t fd fmt (s.valueFpr fs fmt) ∧ Advances s t ∧ KeepsAllBut [.fprs] s t))
          ∧ (listed = false → moves = false →
            (s.holds fd fmt = true → Completes p.1 s (fun t =>
                TakesFormat s t fd fmt (s.valueFpr fd fmt) ∧ Advances s t ∧ KeepsAllBut [.fprs] s t))
            ∧ Completes p.1 s (fun t => Advances s t ∧ KeepsAllBut [.fprs] s t
                ∧ ∀ r, r ≠ fd → (fmt = .d → r ≠ fd ^^^ 1) → t.readFpr r = s.readFpr r)))

/-- ADD, SUB, MUL and DIV in S and D: the operation's result and conditions, trapped or written and gathered. (R301,
R304, R307, R308, R309, R310.) -/
def Obligations.FpuBinary : Prop :=
  ∀ (s : State) (ft fs fd : Reg), s.cp1Usable = true →
    ∀ p ∈ ([(.addS ft fs fd, wordR 17 16 ft fs fd 0, .s, fpAdd), (.addD ft fs fd, wordR 17 17 ft fs fd 0, .d, fpAdd),
        (.subS ft fs fd, wordR 17 16 ft fs fd 1, .s, fpSub), (.subD ft fs fd, wordR 17 17 ft fs fd 1, .d, fpSub),
        (.mulS ft fs fd, wordR 17 16 ft fs fd 2, .s, fpMul), (.mulD ft fs fd, wordR 17 17 ft fs fd 2, .d, fpMul),
        (.divS ft fs fd, wordR 17 16 ft fs fd 3, .s, fpDiv), (.divD ft fs fd, wordR 17 17 ft fs fd 3, .d, fpDiv)] :
          List (Instr × Word × Fmt × (FpEnv → FpFormat → FpVal → FpVal → FpOut))),
      let fmt := p.2.2.1
      let f := fpFormat fmt
      let a := s.valueFpr fs fmt
      let b := s.valueFpr ft fmt
      let out := p.2.2.2 s.fpEnv f (fpUnpack f s.cfg.nan2008 a) (fpUnpack f s.cfg.nan2008 b)
      decode p.2.1 = .ok p.1
        ∧ ((∀ r ∈ [ft, fs, fd], fmtSuits fmt r = true) → s.holds fs fmt = true → s.holds ft fmt = true →
          s.fpUnimplementedOn p.1 fmt a b = false → s.fpDenormal fmt out.value = false →
          FpEnds p.1 s out.conds (fun t => TakesFormat s t fd fmt out.value ∧ FcsrAfter s.fcsr t.fcsr out.conds true
            ∧ KeepsAllBut [.fprs, .fcsr] s t))

/-- ABS, NEG, SQRT, CVT.D and CVT.S: result, conditions, trap or write, and what stays. That ABS and NEG of a NaN
deliver a free quiet NaN, also where it is not invalid, is the model's reading (log 45, DEDUCED): R305 keeps every
other bit and R303 leaves the quiet NaN open. (R300, R301, R303, R304, R305, R306, R311, R316, R317.) -/
def Obligations.FpuOneOperand : Prop :=
  ∀ (s : State) (fs fd : Reg), s.cp1Usable = true →
    let n := s.cfg.nan2008
    let env := s.fpEnv
    let sign (f : FpFormat) (v r : BitVec 64) : FpOut :=
      match fpUnpack f n v with
      | .nan q => ⟨{ FpConds.none with invalid := q || s.cfg.absNegQnanInvalid }, fpQuietNan f n env.nanDraw⟩
      | _ => ⟨.none, r⟩
    let int (v : BitVec 64) : FpVal :=
      .fin (decide ((v.setWidth 32).toInt < 0)) (v.setWidth 32).toInt.natAbs 0
    ∀ p ∈ ([(.absS fs fd, wordR 17 16 0 fs fd 5, .s, .s, fun v => sign .single v (v &&& 0x7FFFFFFF)),
        (.absD fs fd, wordR 17 17 0 fs fd 5, .d, .d, fun v => sign .double v (v &&& 0x7FFFFFFFFFFFFFFF)),
        (.negS fs fd, wordR 17 16 0 fs fd 7, .s, .s, fun v => sign .single v (v ^^^ 0x80000000)),
        (.negD fs fd, wordR 17 17 0 fs fd 7, .d, .d, fun v => sign .double v (v ^^^ 0x8000000000000000)),
        (.sqrtS fs fd, wordR 17 16 0 fs fd 4, .s, .s, fun v => fpSqrt env .single (fpUnpack .single n v)),
        (.sqrtD fs fd, wordR 17 17 0 fs fd 4, .d, .d, fun v => fpSqrt env .double (fpUnpack .double n v)),
        (.cvtDS fs fd, wordR 17 16 0 fs fd 33, .s, .d, fun v => fpConvert env .double (fpUnpack .single n v)),
        (.cvtDW fs fd, wordR 17 20 0 fs fd 33, .w, .d, fun v => fpConvert env .double (int v)),
        (.cvtSD fs fd, wordR 17 17 0 fs fd 32, .d, .s, fun v => fpConvert env .single (fpUnpack .double n v)),
        (.cvtSW fs fd, wordR 17 20 0 fs fd 32, .w, .s, fun v => fpConvert env .single (int v))] :
          List (Instr × Word × Fmt × Fmt × (BitVec 64 → FpOut))),
      let src := p.2.2.1
      let dst := p.2.2.2.1
      let a := s.valueFpr fs src
      let out := p.2.2.2.2 a
      let x := if s.fpDenormal dst out.value then FpConds.justUnimplemented else out.conds
      decode p.2.1 = .ok p.1
        ∧ (fmtSuits src fs = true → fmtSuits dst fd = true → s.holds fs src = true →
          s.fpUnimplementedOn p.1 src a 0 = false →
          FpEnds p.1 s x (fun t => TakesFormat s t fd dst out.value ∧ FcsrAfter s.fcsr t.fcsr x true
            ∧ KeepsAllBut [.fprs, .fcsr] s t))

/-- CVT.W, ROUND.W, TRUNC.W, CEIL.W and FLOOR.W: the integer, rounded in the instruction's own mode, or 2^31 - 1.
(R301, R304, R318, R319, R320, R321, R322, R328.) -/
def Obligations.FpuToWord : Prop :=
  ∀ (s : State) (fs fd : Reg), s.cp1Usable = true →
    let rm := s.fcsr.extractLsb' 0 2
    ∀ p ∈ ([(.cvtWS fs fd, wordR 17 16 0 fs fd 36, .s, rm), (.cvtWD fs fd, wordR 17 17 0 fs fd 36, .d, rm),
        (.roundWS fs fd, wordR 17 16 0 fs fd 12, .s, 0), (.roundWD fs fd, wordR 17 17 0 fs fd 12, .d, 0),
        (.truncWS fs fd, wordR 17 16 0 fs fd 13, .s, 1), (.truncWD fs fd, wordR 17 17 0 fs fd 13, .d, 1),
        (.ceilWS fs fd, wordR 17 16 0 fs fd 14, .s, 2), (.ceilWD fs fd, wordR 17 17 0 fs fd 14, .d, 2),
        (.floorWS fs fd, wordR 17 16 0 fs fd 15, .s, 3),
        (.floorWD fs fd, wordR 17 17 0 fs fd 15, .d, 3)] : List (Instr × Word × Fmt × BitVec 2)),
      let fmt := p.2.2.1
      let v := s.valueFpr fs fmt
      let a := fpUnpack (fpFormat fmt) s.cfg.nan2008 v
      let x := a.value
      let n := roundToInt p.2.2.2 x
      let out : FpOut := if a.isFinite = true ∧ -2 ^ 31 ≤ n ∧ n ≤ 2 ^ 31 - 1
        then ⟨{ FpConds.none with inexact := decide ((n : ℚ) ≠ x) }, (BitVec.ofInt 32 n).setWidth 64⟩
        else ⟨.justInvalid, 0x7FFFFFFF⟩
      decode p.2.1 = .ok p.1
        ∧ (fmtSuits fmt fs = true → s.holds fs fmt = true → s.fpUnimplementedOn p.1 fmt v 0 = false →
          FpEnds p.1 s out.conds (fun t => TakesFpr s t fd (out.value.setWidth 32) .w
            ∧ FcsrAfter s.fcsr t.fcsr out.conds true ∧ KeepsAllBut [.fprs, .fcsr] s t))

/-- The thirty-two compares: less, equal and unordered by the condition's bits, and when a NaN is Invalid Operation.
(R312, R313, R314.) -/
def Obligations.FpuCompare : Prop :=
  ∀ (s : State) (ft fs : Reg) (cc : Cc), s.cp1Usable = true →
    ∀ p ∈ ([(.cFS ft fs cc, 16, .s, 0), (.cFD ft fs cc, 17, .d, 0), (.cUnS ft fs cc, 16, .s, 1), (.cUnD ft fs cc, 17, .d, 1),
        (.cEqS ft fs cc, 16, .s, 2), (.cEqD ft fs cc, 17, .d, 2), (.cUeqS ft fs cc, 16, .s, 3), (.cUeqD ft fs cc, 17, .d, 3),
        (.cOltS ft fs cc, 16, .s, 4), (.cOltD ft fs cc, 17, .d, 4), (.cUltS ft fs cc, 16, .s, 5), (.cUltD ft fs cc, 17, .d, 5),
        (.cOleS ft fs cc, 16, .s, 6), (.cOleD ft fs cc, 17, .d, 6), (.cUleS ft fs cc, 16, .s, 7), (.cUleD ft fs cc, 17, .d, 7),
        (.cSfS ft fs cc, 16, .s, 8), (.cSfD ft fs cc, 17, .d, 8), (.cNgleS ft fs cc, 16, .s, 9), (.cNgleD ft fs cc, 17, .d, 9),
        (.cSeqS ft fs cc, 16, .s, 10), (.cSeqD ft fs cc, 17, .d, 10), (.cNglS ft fs cc, 16, .s, 11), (.cNglD ft fs cc, 17, .d, 11),
        (.cLtS ft fs cc, 16, .s, 12), (.cLtD ft fs cc, 17, .d, 12), (.cNgeS ft fs cc, 16, .s, 13), (.cNgeD ft fs cc, 17, .d, 13),
        (.cLeS ft fs cc, 16, .s, 14), (.cLeD ft fs cc, 17, .d, 14), (.cNgtS ft fs cc, 16, .s, 15), (.cNgtD ft fs cc, 17, .d, 15)] :
          List (Instr × BitVec 5 × Fmt × BitVec 4)),
      let fmt := p.2.2.1
      let cond := p.2.2.2
      let va := s.valueFpr fs fmt
      let vb := s.valueFpr ft fmt
      let a := fpUnpack (fpFormat fmt) s.cfg.nan2008 va
      let b := fpUnpack (fpFormat fmt) s.cfg.nan2008 vb
      let unordered := a.isNan || b.isNan
      let holds := (cond.getLsbD 2 && !unordered && decide (a.extended < b.extended))
        || (cond.getLsbD 1 && !unordered && decide (a.extended = b.extended)) || (cond.getLsbD 0 && unordered)
      let x := { FpConds.none with
        invalid := a.isSignalling || b.isSignalling || (cond.getLsbD 3 && unordered) }
      decode (wordR 17 p.2.1 ft fs (cc ++ 0#2) (3#2 ++ cond)) = .ok p.1
        ∧ (fmtSuits fmt fs = true → fmtSuits fmt ft = true → s.holds fs fmt = true → s.holds ft fmt = true →
          s.fpUnimplementedOn p.1 fmt va vb = false →
          FpEnds p.1 s x (fun t => KeepsAllBut [.fcsr] s t
            ∧ ∃ c, FcsrAfter s.fcsr c x true ∧ t.fcsr = putBit c (if cc = 0 then 23 else 24 + cc.toNat) holds))

/-- BC1F, BC1T and their likely forms: condition code, target, delay slot, nullification. What FPUnimplemented is
asked about, the instruction and the condition code's bit, is the model's choice (log 28, D33). (R302, R323, R324,
R325, R326, R327.) -/
def Obligations.FpuBranch : Prop :=
  ∀ (s : State) (cc : Cc) (off : Half), s.cp1Usable = true → s.inDelaySlot = false →
    let bit := s.fcsr.getLsbD (if cc = 0 then 23 else 24 + cc.toNat)
    ∀ p ∈ ([(.bc1f cc off, wordI 17 8 (cc ++ 0#2) off, false, !bit), (.bc1fl cc off, wordI 17 8 (cc ++ 2#2) off, true, !bit),
        (.bc1t cc off, wordI 17 8 (cc ++ 1#2) off, false, bit), (.bc1tl cc off, wordI 17 8 (cc ++ 3#2) off, true, bit)] :
          List (Instr × Word × Bool × Bool)),
      decode p.2.1 = .ok p.1
        ∧ (s.fpListed p.1 ((BitVec.ofBool bit).setWidth 64) 0 0 = false → Completes p.1 s (fun t =>
            AfterBranch s t p.2.2.1 p.2.2.2 (branchTarget s.pc off) ∧ KeepsAllBut [] s t))
        ∧ (s.fpListed p.1 ((BitVec.ofBool bit).setWidth 64) 0 0 = true → Completes p.1 s (fun t =>
            ∃ c, FcsrAfter s.fcsr c .justUnimplemented false ∧ EntersPlain { s with fcsr := c } t 15))

/-- An odd register for a double word is refused; every other FPU operation completes, whatever its operands hold.
That operations complete whatever format their operands hold, with free values, is the model's choice (log 25): R304
and U20 refuse the step. So is the named refusal of odd registers, after the check of the coprocessor (log 26): R50
and U21 call that result unpredictable. (R50, R51, R304.) -/
def Obligations.FpuRegisters : Prop :=
  ∀ (s : State) (rt ft fs fd : Reg) (cc : Cc) (off : Half), s.cp1Usable = true →
    (∀ p ∈ ([(.addD ft fs fd, [ft, fs, fd]), (.subD ft fs fd, [ft, fs, fd]), (.mulD ft fs fd, [ft, fs, fd]),
        (.divD ft fs fd, [ft, fs, fd]), (.absD fs fd, [fs, fd]), (.negD fs fd, [fs, fd]),
        (.sqrtD fs fd, [fs, fd]), (.cvtWD fs fd, [fs]), (.roundWD fs fd, [fs]), (.truncWD fs fd, [fs]),
        (.ceilWD fs fd, [fs]), (.floorWD fs fd, [fs]), (.cvtSD fs fd, [fs]), (.cvtDS fs fd, [fd]),
        (.cvtDW fs fd, [fd]), (.cFD ft fs cc, [fs, ft]), (.cUnD ft fs cc, [fs, ft]),
        (.cEqD ft fs cc, [fs, ft]), (.cUeqD ft fs cc, [fs, ft]), (.cOltD ft fs cc, [fs, ft]),
        (.cUltD ft fs cc, [fs, ft]), (.cOleD ft fs cc, [fs, ft]), (.cUleD ft fs cc, [fs, ft]),
        (.cSfD ft fs cc, [fs, ft]), (.cNgleD ft fs cc, [fs, ft]), (.cSeqD ft fs cc, [fs, ft]),
        (.cNglD ft fs cc, [fs, ft]), (.cLtD ft fs cc, [fs, ft]), (.cNgeD ft fs cc, [fs, ft]),
        (.cLeD ft fs cc, [fs, ft]), (.cNgtD ft fs cc, [fs, ft]), (.movD fs fd, [fs, fd]),
        (.movfD cc fs fd, [fs, fd]), (.movtD cc fs fd, [fs, fd]), (.movnD rt fs fd, [fs, fd]),
        (.movzD rt fs fd, [fs, fd]), (.ldc1 rt ft off, [ft]), (.sdc1 rt ft off, [ft])] : List (Instr × List Reg)),
      (∃ r ∈ p.2, r.getLsbD 0 = true) → Refuses p.1 s .oddDoubleRegister)
    ∧ ∀ p ∈ ([(.addD ft fs fd, [ft, fs, fd]), (.subD ft fs fd, [ft, fs, fd]), (.mulD ft fs fd, [ft, fs, fd]),
        (.divD ft fs fd, [ft, fs, fd]), (.absD fs fd, [fs, fd]), (.negD fs fd, [fs, fd]),
        (.sqrtD fs fd, [fs, fd]), (.cvtWD fs fd, [fs]), (.roundWD fs fd, [fs]), (.truncWD fs fd, [fs]),
        (.ceilWD fs fd, [fs]), (.floorWD fs fd, [fs]), (.cvtSD fs fd, [fs]), (.cvtDS fs fd, [fd]),
        (.cvtDW fs fd, [fd]), (.cFD ft fs cc, [fs, ft]), (.cUnD ft fs cc, [fs, ft]),
        (.cEqD ft fs cc, [fs, ft]), (.cUeqD ft fs cc, [fs, ft]), (.cOltD ft fs cc, [fs, ft]),
        (.cUltD ft fs cc, [fs, ft]), (.cOleD ft fs cc, [fs, ft]), (.cUleD ft fs cc, [fs, ft]),
        (.cSfD ft fs cc, [fs, ft]), (.cNgleD ft fs cc, [fs, ft]), (.cSeqD ft fs cc, [fs, ft]),
        (.cNglD ft fs cc, [fs, ft]), (.cLtD ft fs cc, [fs, ft]), (.cNgeD ft fs cc, [fs, ft]),
        (.cLeD ft fs cc, [fs, ft]), (.cNgtD ft fs cc, [fs, ft]), (.movD fs fd, [fs, fd]),
        (.movfD cc fs fd, [fs, fd]), (.movtD cc fs fd, [fs, fd]), (.movnD rt fs fd, [fs, fd]),
        (.movzD rt fs fd, [fs, fd]),
        (.addS ft fs fd, []), (.subS ft fs fd, []), (.mulS ft fs fd, []), (.divS ft fs fd, []),
        (.absS fs fd, []), (.negS fs fd, []), (.sqrtS fs fd, []), (.cvtWS fs fd, []), (.roundWS fs fd, []),
        (.truncWS fs fd, []), (.ceilWS fs fd, []), (.floorWS fs fd, []), (.cvtSW fs fd, []),
        (.cFS ft fs cc, []), (.cUnS ft fs cc, []), (.cEqS ft fs cc, []), (.cUeqS ft fs cc, []),
        (.cOltS ft fs cc, []), (.cUltS ft fs cc, []), (.cOleS ft fs cc, []), (.cUleS ft fs cc, []),
        (.cSfS ft fs cc, []), (.cNgleS ft fs cc, []), (.cSeqS ft fs cc, []), (.cNglS ft fs cc, []),
        (.cLtS ft fs cc, []), (.cNgeS ft fs cc, []), (.cLeS ft fs cc, []), (.cNgtS ft fs cc, []),
        (.movS fs fd, []), (.movfS cc fs fd, []), (.movtS cc fs fd, []), (.movnS rt fs fd, []),
        (.movzS rt fs fd, [])] : List (Instr × List Reg)),
      (∀ r ∈ p.2, r.getLsbD 0 = false) → Completes p.1 s (fun t =>
        (Advances s t ∨ (t.pc = s.vector .floatingPoint ∧ t.cp0.cause.extractLsb' 2 5 = 15))
          ∧ KeepsAllBut [.link, .cp0, .fprs, .fcsr] s t
          ∧ ∀ r, (∀ x ∈ [ft, fs, fd], r ≠ x ∧ r ≠ x ^^^ 1) → t.readFpr r = s.readFpr r)

/-- Where R302's predicate holds, the FPU operation takes the trap with E alone in Cause. The form of the predicate,
and that it takes the place of every other condition, is the model's choice (log 28). (R302, R301, R300.) -/
def Obligations.FpuUnimplemented : Prop :=
  ∀ (s : State) (ft fs fd : Reg) (cc : Cc), s.cp1Usable = true →
    let traps (i : Instr) : Prop := Completes i s (fun t =>
      ∃ c, FcsrAfter s.fcsr c .justUnimplemented false ∧ EntersPlain { s with fcsr := c } t 15)
    (∀ p ∈ ([(.addS ft fs fd, .s, fpAdd), (.addD ft fs fd, .d, fpAdd),
        (.subS ft fs fd, .s, fpSub), (.subD ft fs fd, .d, fpSub),
        (.mulS ft fs fd, .s, fpMul), (.mulD ft fs fd, .d, fpMul),
        (.divS ft fs fd, .s, fpDiv), (.divD ft fs fd, .d, fpDiv)] :
          List (Instr × Fmt × (FpEnv → FpFormat → FpVal → FpVal → FpOut))),
      let fmt := p.2.1
      let f := fpFormat fmt
      let a := s.valueFpr fs fmt
      let b := s.valueFpr ft fmt
      let out := p.2.2 s.fpEnv f (fpUnpack f s.cfg.nan2008 a) (fpUnpack f s.cfg.nan2008 b)
      (∀ r ∈ [ft, fs, fd], fmtSuits fmt r = true) → s.holds fs fmt = true → s.holds ft fmt = true →
        s.fpUnimplementedOn p.1 fmt a b = true ∨ s.fpDenormal fmt out.value = true → traps p.1)
    ∧ (∀ p ∈ ([(.cFS ft fs cc, .s), (.cFD ft fs cc, .d), (.cUnS ft fs cc, .s), (.cUnD ft fs cc, .d),
        (.cEqS ft fs cc, .s), (.cEqD ft fs cc, .d), (.cUeqS ft fs cc, .s), (.cUeqD ft fs cc, .d),
        (.cOltS ft fs cc, .s), (.cOltD ft fs cc, .d), (.cUltS ft fs cc, .s), (.cUltD ft fs cc, .d),
        (.cOleS ft fs cc, .s), (.cOleD ft fs cc, .d), (.cUleS ft fs cc, .s), (.cUleD ft fs cc, .d),
        (.cSfS ft fs cc, .s), (.cSfD ft fs cc, .d), (.cNgleS ft fs cc, .s), (.cNgleD ft fs cc, .d),
        (.cSeqS ft fs cc, .s), (.cSeqD ft fs cc, .d), (.cNglS ft fs cc, .s), (.cNglD ft fs cc, .d),
        (.cLtS ft fs cc, .s), (.cLtD ft fs cc, .d), (.cNgeS ft fs cc, .s), (.cNgeD ft fs cc, .d),
        (.cLeS ft fs cc, .s), (.cLeD ft fs cc, .d), (.cNgtS ft fs cc, .s), (.cNgtD ft fs cc, .d)] :
          List (Instr × Fmt)),
      fmtSuits p.2 fs = true → fmtSuits p.2 ft = true → s.holds fs p.2 = true → s.holds ft p.2 = true →
        s.fpUnimplementedOn p.1 p.2 (s.valueFpr fs p.2) (s.valueFpr ft p.2) = true → traps p.1)
    ∧ ∀ p ∈ ([(.absS fs fd, .s, .s), (.absD fs fd, .d, .d), (.negS fs fd, .s, .s),
        (.negD fs fd, .d, .d), (.sqrtS fs fd, .s, .s), (.sqrtD fs fd, .d, .d),
        (.cvtWS fs fd, .s, .w), (.cvtWD fs fd, .d, .w), (.roundWS fs fd, .s, .w),
        (.roundWD fs fd, .d, .w), (.truncWS fs fd, .s, .w),
        (.truncWD fs fd, .d, .w), (.ceilWS fs fd, .s, .w), (.ceilWD fs fd, .d, .w),
        (.floorWS fs fd, .s, .w), (.floorWD fs fd, .d, .w), (.cvtSD fs fd, .d, .s),
        (.cvtSW fs fd, .w, .s), (.cvtDS fs fd, .s, .d), (.cvtDW fs fd, .w, .d)] :
          List (Instr × Fmt × Fmt)),
      fmtSuits p.2.1 fs = true → fmtSuits p.2.2 fd = true → s.holds fs p.2.1 = true →
        s.fpUnimplementedOn p.1 p.2.1 (s.valueFpr fs p.2.1) 0 = true → traps p.1

/-- Rounding gives the number of the format that the mode asks for; overflow and underflow exactly as defined. That
overflow and tininess are judged by the number rounded with an unbounded exponent is DEDUCED (log 40). (R300, R303.)
-/
def Obligations.FpRounding : Prop :=
  ∀ f ∈ [FpFormat.single, FpFormat.double], ∀ (rm : BitVec 2) (enabled neg : Bool) (m : Nat) (e : Int), m ≠ 0 →
    Rounded f rm enabled ((FpVal.fin neg m e).value : ℚ) (fpRound f rm enabled neg m e)
      ∧ (fpOverflow f rm neg).conds = { FpConds.none with overflow := true, inexact := true }
      ∧ ∀ n, fpUnpack f n (fpOverflow f rm neg).value =
          if rm = 0 ∨ (rm = 2 ∧ neg = false) ∨ (rm = 3 ∧ neg = true) then .inf neg
          else .fin neg (2 ^ (f.fracBits + 1) - 1) ((f.bias : Int) - f.fracBits)

/-- Sum, difference, product, quotient, square root and conversion are the exact results rounded once. The signs of
exact zeros that the rules leave to inference, and that overflow and tininess are judged with an unbounded exponent,
are the model's reading (log 40, DEDUCED). (R300, R307, R308, R309, R310, R311, R316, R317.) -/
def Obligations.FpArithmeticRounds : Prop :=
  ∀ f ∈ [FpFormat.single, FpFormat.double], ∀ (env : FpEnv) (na nb : Bool) (ma mb : Nat) (ea eb : Int),
    let a := FpVal.fin na ma ea
    let b := FpVal.fin nb mb eb
    let x : ℝ := (a.value : ℚ)
    let y : ℝ := (b.value : ℚ)
    let zero (n : Bool) : FpOut := ⟨.none, fpZero f n⟩
    let gives (out : FpOut) (r : ℝ) (n : Bool) : Prop :=
      (r ≠ 0 → Rounded f env.rm env.underflowEnabled r out) ∧ (r = 0 → out = zero n)
    gives (fpAdd env f a b) (x + y) (if na = nb then na else decide (env.rm = 3))
    ∧ gives (fpSub env f a b) (x - y) (if na = !nb then na else decide (env.rm = 3))
    ∧ gives (fpMul env f a b) (x * y) (na != nb)
    ∧ (mb ≠ 0 → gives (fpDiv env f a b) (x / y) (na != nb))
    ∧ (na = false ∨ ma = 0 → gives (fpSqrt env f a) (Real.sqrt x) na)
    ∧ gives (fpConvert env f a) x na

/-- NaNs, infinities and zeros: the invalid operations, division by zero, and the exact infinite results. (R300, R303,
R309, R310, R311.) -/
def Obligations.FpSpecialOperands : Prop :=
  ∀ f ∈ [FpFormat.single, FpFormat.double], ∀ (env : FpEnv) (a b : FpVal) (na nb : Bool) (m k : Nat) (e l : Int),
    let nan (x : FpConds) : FpOut := ⟨x, fpQuietNan f env.nan2008 env.nanDraw⟩
    let exact (v : BitVec 64) : FpOut := ⟨.none, v⟩
    (∀ n d, fpUnpack f n (fpQuietNan f n d) = .nan false)
    ∧ (∀ n, fpUnpack f n (fpInf f na) = .inf na ∧ fpUnpack f n (fpZero f na) = .fin na 0 (1 - (f.bias : Int) - f.fracBits))
    ∧ (a.isNan = true ∨ b.isNan = true → ∀ g ∈ [fpAdd, fpSub, fpMul, fpDiv],
        g env f a b = nan { FpConds.none with invalid := a.isSignalling || b.isSignalling })
    ∧ (a.isNan = true → fpSqrt env f a = nan { FpConds.none with invalid := a.isSignalling }
        ∧ fpConvert env f a = nan { FpConds.none with invalid := a.isSignalling })
    ∧ fpAdd env f (.inf na) (.inf nb) = (if na = nb then exact (fpInf f na) else nan .justInvalid)
    ∧ fpSub env f (.inf na) (.inf nb) = (if na = nb then nan .justInvalid else exact (fpInf f na))
    ∧ fpAdd env f (.inf na) (.fin nb m e) = exact (fpInf f na) ∧ fpAdd env f (.fin nb m e) (.inf na) = exact (fpInf f na)
    ∧ fpSub env f (.inf na) (.fin nb m e) = exact (fpInf f na) ∧ fpSub env f (.fin nb m e) (.inf na) = exact (fpInf f !na)
    ∧ fpMul env f (.inf na) (.inf nb) = exact (fpInf f (na != nb))
    ∧ (∀ g ∈ [fpMul env f (.inf na) (.fin nb m e), fpMul env f (.fin nb m e) (.inf na)],
        g = if m = 0 then nan .justInvalid else exact (fpInf f (na != nb)))
    ∧ fpDiv env f (.inf na) (.inf nb) = nan .justInvalid
    ∧ fpDiv env f (.inf na) (.fin nb m e) = exact (fpInf f (na != nb))
    ∧ fpDiv env f (.fin na m e) (.inf nb) = exact (fpZero f (na != nb))
    ∧ fpDiv env f (.fin na m e) (.fin nb 0 l) =
        (if m = 0 then nan .justInvalid else ⟨.justDivByZero, fpInf f (na != nb)⟩)
    ∧ fpSqrt env f (.inf false) = exact (fpInf f false) ∧ fpSqrt env f (.inf true) = nan .justInvalid
    ∧ fpSqrt env f (.fin true (k + 1) e) = nan .justInvalid ∧ fpSqrt env f (.fin true 0 e) = exact (fpZero f true)
    ∧ fpConvert env f (.inf na) = exact (fpInf f na)

/-- An exception taken with EXL and ERL clear, and ERET after it, go back to the restart address with Status restored.
(R28, R350, R354, R355, R266.) -/
def Obligations.ExceptionReturns : Prop :=
  ∀ (s : State) (x : Exc),
    (s.cp0.exl = false → s.cp0.erl = false → Completes .eret (s.raise x) (fun t =>
        t.pc = (if s.inDelaySlot then s.pc - 4 else s.pc) ∧ t.npc = t.pc + 4 ∧ t.inDelaySlot = false
          ∧ t.cp0.status = s.cp0.status ∧ KeepsAllBut [.link, .cp0] s t))
    ∧ (s.cp0.exl = true → (s.raise x).cp0.epc = s.cp0.epc
        ∧ (s.raise x).cp0.cause.getLsbD 31 = s.cp0.cause.getLsbD 31
        ∧ (s.raise x).pc = (if s.cp0.bev then s.cfg.vecBaseBoot else s.cfg.vecBaseNormal) + 0x180)
    ∧ (s.raise x).cp0.exl = true ∧ (s.raise x).userMode = false

/-- The inputs of a step, and when an interrupt is taken: its code, vector, and the address to return to. When the
timer's request shows is the model's choice (log 33, PRESUMED; R368 gives no moment), and so is the script of inputs
(log 11). (R20, R58, R84, R360, R361, R362, R364, R368.) -/
def Obligations.InterruptsAndInputs : Prop :=
  ∀ s : State,
    let u := s.sample
    let common := u.cp0.cause.extractLsb' 8 8 &&& u.cp0.status.extractLsb' 8 8
    let taken := u.cp0.status.extractLsb' 0 3 = 1 ∧ common ≠ 0
    (∃ r : Bool, (s.cfg.hasTimer = false → r = false)
        ∧ (s.cfg.hasTimer = true → s.cp0.count = s.cp0.compare ∨ s.cp0.timerRequest = true →
            r = true ∧ u.cp0.timerRequest = true)
        ∧ u.cp0.cause.extractLsb' 10 6 = s.input.irq ||| (if r then 0x20 else 0))
    ∧ u.cp0.cause &&& 0xFFFF03FF = s.cp0.cause &&& 0xFFFF03FF ∧ u.cp0.status = s.cp0.status
    ∧ u.env = s.env.tail ∧ u.draws = s.draws + 1 ∧ u.pc = s.pc ∧ u.npc = s.npc ∧ u.inDelaySlot = s.inDelaySlot
    ∧ (∀ p ∈ [Part.gprs, .hiLo, .tlb, .fprs, .fcsr], p.same s u)
    ∧ (∀ a, (∀ c ∈ s.input.writes, c.1 ≠ a) → u.byteAt a = s.byteAt a)
    ∧ (∀ a v before after, s.input.writes = before ++ (a, v) :: after → (∀ c ∈ after, c.1 ≠ a) →
        u.byteAt a = if a < 2 ^ s.cfg.psize then v else s.byteAt a)
    ∧ (u.llBit = true ↔ s.llBit = true ∧ ∀ c ∈ s.input.writes, c.1 < 2 ^ s.cfg.psize →
        c.1 / s.cfg.llBlockSize ≠ s.llAddr.toNat / s.cfg.llBlockSize)
    ∧ KeepsLink s u
    ∧ (s.input.event = .none →
        (taken → ∃ t, step s = .next t ∧ t.waiting = false ∧ RecordsNothing u t ∧ KeepsUnit u t
          ∧ Enters { u with waiting := false } t 0 (if u.cp0.cause.getLsbD 23 then 0x200 else 0x180))
        ∧ (¬ taken → s.waiting = false → step s = runInstr u))

/-- What reset leaves: pc, kernel mode, empty histories, Random, Wired, Config, and Status as the model has it. The
model's choices: the zeros of IE, IM, KSU, CU and RE in Status, which R59, R44 and R380 leave unspecified (log 3), the
default parameters (log 7), and bit 2 as the place of Config1.CA (log 7, PRESUMED). (R59, R380, R31, R35, R40, R44,
R48.) -/
def Obligations.ResetValues : Prop :=
  (∀ (cfg : Params) (n : Nat),
    let s := State.resetWith cfg n
    s.pc = cfg.resetPc ∧ s.npc = cfg.resetPc + 4 ∧ s.inDelaySlot = false ∧ s.loadPending = none ∧ s.llBit = false
      ∧ s.pairFresh = false ∧ s.hist1 = none ∧ s.hist2 = none ∧ s.waiting = false ∧ s.readGpr 0 = 0
      ∧ s.cp0.status = 0x00400004 ∧ s.userMode = false ∧ s.cp0.random = BitVec.ofNat 32 (n - 1) ∧ s.cp0.wired = 0
      ∧ s.cp0.config.getLsbD 31 = true ∧ s.cp0.config.getLsbD 15 = cfg.bigEndianMem
      ∧ s.cp0.config.extractLsb' 10 5 = 0 ∧ s.cp0.config.extractLsb' 7 3 = 1 ∧ s.cp0.config1.getLsbD 2 = false
      ∧ s.tlbEntries = n ∧ ∀ r, s.tagOf r = .unknown)
    ∧ State.reset.pc = 0xBFC00000 ∧ State.reset.tlbEntries = 16 ∧ State.reset = State.resetWith Params.default 16

/-- Reset, soft reset and NMI inputs: where control goes, ErrorEPC, and the status bits. The model's choices: that
Reset empties memory, what soft reset and NMI keep, and that npc and the delay slot follow the new pc there (log 34,
DEDUCED; R357 names pc alone), and the values of what R59 leaves unspecified after Reset (logs 1 to 6 and 9). (R45,
R59, R277, R353, R357.) -/
def Obligations.ResetInputs : Prop :=
  ∀ s : State,
    let u := s.sample
    let restart := if s.inDelaySlot then s.pc - 4 else s.pc
    (s.input.event = .reset → step s = .next { State.resetWith s.cfg s.tlbEntries with
        env := u.env, draws := u.draws, cp0 := { Cp0.reset s.cfg s.tlbEntries with errorEpc := s.pc } })
    ∧ ∀ p ∈ ([(.softReset, 0x00500004), (.nmi, 0x00480004)] : List (ResetEvent × Word)),
      s.input.event = p.1 → ∃ t, step s = .next t ∧ t.pc = s.cfg.resetPc ∧ t.npc = s.cfg.resetPc + 4
        ∧ t.inDelaySlot = false ∧ t.waiting = false
        ∧ t.cp0 = { u.cp0 with errorEpc := restart, status := u.cp0.status ||| p.2 }
        ∧ ∀ q ∈ [Part.gprs, .hiLo, .link, .tlb, .fprs, .fcsr, .memory], q.same u t

/-- A step that begins an instruction runs the meaning of the word at pc. That the value is free then, and how far
settle looks ahead, is the model's choice (log 14). (R26, R75, R214.) -/
def Obligations.StepRunsDecoded : Prop :=
  (∀ (s u : State) (pa : PAddr) (i : Instr), s.begin = .run u → u.locate u.pc 4 .fetch = .ok pa →
      u.admits pa.toNat 4 .fetch = true → decode (u.wordAt pa.toNat) = .ok i →
      ((∀ rd, i ≠ .mfhi rd ∧ i ≠ .mflo rd) → step s = exec i u)
        ∧ ∀ rd, i = .mfhi rd ∨ i = .mflo rd → ∃ t, exec i u = .next t ∧ step s = .next t.settle
          ∧ (t.settle = t ∨ t.settle = { t.writeGpr rd (t.freeWord .window1) with hist1 := none }))
    ∧ ∀ s : State, s.waiting = false → s.env = [] → s.cfg.hasTimer = false →
      s.cp0.status.getLsbD 0 = false ∨ s.cp0.exl = true ∨ s.cp0.erl = true →
      s.begin = .run { s with draws := s.draws + 1, cp0 := { s.cp0 with cause := s.cp0.cause &&& 0xFFFF03FF } }

/-- The exceptions of a fetch: misaligned pc, forbidden segment, TLB Refill and Invalid, several matches, Bus Error.
That several matches stop the machine is the model's choice (log 21): R72 and U12 call that case undefined. The order
of the checks of a fetch is DEDUCED (log 48). (R75, R341, R342, R343, R344, R352, R72.) -/
def Obligations.FetchFaults : Prop :=
  ∀ (s u : State), s.begin = .run u →
    let enters (P : State → Prop) : Prop := ∃ t, step s = .next t ∧ P t
    (u.pc.toNat % 4 ≠ 0 ∨ (u.userMode = true ∧ 2 ^ 31 ≤ u.pc.toNat) →
        enters (fun t => EntersAddressError u t 4 u.pc))
    ∧ (u.pc.toNat % 4 = 0 → Mapped u u.pc →
        (u.tlbHits u.pc = [] → enters (fun t => EntersTlb u t 2 (if u.cp0.exl then 0x180 else 0) u.pc))
        ∧ (∀ e, u.tlbHits u.pc = [e] → (e.page u.pc).v = false → enters (fun t => EntersTlb u t 2 0x180 u.pc))
        ∧ (∀ e, u.tlbHits u.pc = [e] → (e.page u.pc).v = true →
            u.locate u.pc 4 .fetch = .ok (e.physical u.cfg.psize u.pc))
        ∧ ∀ e f l, u.tlbHits u.pc = e :: f :: l → step s = .fault .tlbMultipleMatch)
    ∧ ∀ pa, u.locate u.pc 4 .fetch = .ok pa → u.admits pa.toNat 4 .fetch = false →
        enters (fun t => EntersPlain u t 6)

/-- A word that encodes no instruction takes Reserved Instruction, or Coprocessor Unusable for an unusable unit. The
model's choices: COP2 and COP3 words take Reserved Instruction whatever Status.CU says (log 30, DEDUCED from R347,
R348 and D17; R127 says Coprocessor Unusable when the CU bit is 0), and a reserved word of COP0 or COP1 tests the unit
before the encoding (log 31, DEDUCED). (R127, R347, R348.) -/
def Obligations.ReservedWords : Prop :=
  (∀ (s u : State) (pa : PAddr), s.begin = .run u → u.locate u.pc 4 .fetch = .ok pa →
      u.admits pa.toNat 4 .fetch = true → (∀ i : Instr, encode i ≠ u.wordAt pa.toNat) →
      let op := (u.wordAt pa.toNat).extractLsb' 26 6
      let enters (P : State → Prop) : Prop := ∃ t, step s = .next t ∧ P t
      (op = 16 → u.cp0Usable = false → enters (fun t => EntersUnusable u t 0))
        ∧ (op = 17 → u.cp1Usable = false → enters (fun t => EntersUnusable u t 1))
        ∧ ((op = 16 → u.cp0Usable = true) → (op = 17 → u.cp1Usable = true) → enters (fun t => EntersPlain u t 10)))
    ∧ ∀ (i : Instr) (w : Word), w.extractLsb' 26 6 ∈ ([18, 19, 24, 25, 26, 27, 29, 30, 31, 39, 44, 45, 47, 50, 51, 52, 54,
        55, 58, 59, 60, 62, 63] : List (BitVec 6)) → encode i ≠ w

/-- Words written out from the spec's encodings decode to their instructions. (R101, R102, R103, R107, R110, R111.) -/
def Obligations.DecodedWords : Prop :=
  ∀ p ∈ ([(0b000000_00001_00010_00011_00000_100000, .add 1 2 3), (0b001000_00001_00011_1111111111111111, .addi 1 3 0xFFFF),
      (0b000000_00000_00010_00011_00101_000011, .sra 2 3 5), (0b011100_00001_00010_00011_00000_000010, .mul 1 2 3),
      (0b100010_00001_00011_0000000000001000, .lwl 1 3 8), (0b111000_00001_00011_0000000000001000, .sc 1 3 8),
      (0b000001_00001_10001_0000000000000100, .bgezal 1 4), (0b000011_00000000000000000100000000, .jal 0x100),
      (0b000000_00001_00010_0101010101_110110, .tne 1 2 0x155), (0b010000_00100_00001_01100_00000000000, .mtc0 1 12),
      (0b010000_1_0000000000000000000_000110, .tlbwr), (0b110101_00001_00010_0000000000001000, .ldc1 1 2 8),
      (0b010001_10001_00100_00010_00110_000011, .divD 4 2 6), (0b010001_10000_00100_00010_101_00_111100, .cLtS 4 2 5),
      (0b010001_01000_101_1_0_0000000000000100, .bc1fl 5 4)] : List (Word × Instr)),
    decode p.1 = .ok p.2

/-- Decoding an encoded instruction gives it back, with every operand, in both byte orders. (R100, R101, R102, R103,
R127.) -/
def Obligations.DecodeOfEncode : Prop :=
  ∀ (big : Bool) (i : Instr) (rest : List Byte),
    (i.WellFormed = true → decodeBytes big (encodeBytes big i ++ rest) = .ok (i, rest))
    ∧ decode (encode i) = .ok i.canonical ∧ i.canonical.WellFormed = true

/-- A word the decoder accepts is the encoding of the instruction it answers, which is well-formed. (R100, R127.) -/
def Obligations.EncodeOfDecode : Prop :=
  ∀ (w : Word) (i : Instr), decode w = .ok i → encode i = w ∧ i.WellFormed = true

/-- Every step keeps the machine's form: reserved bits zero, a legal mode, Config constant, Random an entry, memory
canonical. (R22, R39, R40, R41, R42, R43, R44, R46, R48, R54, R365.) -/
def Obligations.InvariantKept : Prop :=
  ∀ s t : State, s.Inv → step s = .next t → t.Inv ∧ t.cfg = s.cfg ∧ t.tlbEntries = s.tlbEntries

/-- The state after reset is in the machine's form, whatever the parameters and number of entries. (R59, R380.) -/
def Obligations.ResetInvariant : Prop :=
  (∀ (cfg : Params) (n : Nat), 1 ≤ n → n ≤ 64 → (State.resetWith cfg n).Inv) ∧ State.reset.Inv

/-- User mode without CU0 changes no CP0 register and no TLB entry but by an exception; how kernel mode is left.
(R348, R365, R366.) -/
def Obligations.PrivilegeRules : Prop :=
  ∀ (i : Instr) (s t : State), exec i s = .next t →
    (s.userMode = true → s.cp0.cu0 = false → t.tlb = s.tlb
      ∧ (t.cp0 = s.cp0 ∨ ∃ x, t.cp0 = s.cp0.enter x s.restartAddress s.inDelaySlot ∧ t.pc = s.vector x
          ∧ t.userMode = false))
    ∧ (s.userMode = false → t.userMode = true → i = .eret ∨ ∃ rt, i = .mtc0 rt 12)

/-- Only the instructions of its own family change memory, HI and LO, the FPU, the TLB or the link. (R34, R35, R50,
R54, R57, R49, R84.) -/
def Obligations.StateOwners : Prop :=
  ∀ (i : Instr) (s t : State), exec i s = .next t →
    (storesMemory i = false → Part.memory.same s t)
    ∧ (writesHiLo i = false → Part.hiLo.same s t)
    ∧ (usesCp1 i = false → Part.fprs.same s t ∧ Part.fcsr.same s t)
    ∧ (i ≠ .tlbwi → i ≠ .tlbwr → t.tlb = s.tlb)
    ∧ (t.llBit = true → s.llBit = true ∨ ∃ base rt off, i = .ll base rt off)
    ∧ (t.waiting = true → s.waiting = true ∨ ∃ code, i = .wait code)
    ∧ t.cfg = s.cfg ∧ t.env = s.env ∧ t.draws = s.draws
end

