-- ==== Sys2Proof/Laws/State.lean ====
section
/-! SUPPORT. What each update of the state does to each field: one lemma per field per update, so that no proof unfolds
an update. Where a field changes, its lemma says to what; where it does not, that it is the same. -/
namespace Sys2Proof.Machine

@[simp] theorem State.writeGpr_pc (s : State) (r : Reg) (v : Word) : (s.writeGpr r v).pc = s.pc := by
  unfold State.writeGpr; split <;> rfl
@[simp] theorem State.writeGpr_npc (s : State) (r : Reg) (v : Word) : (s.writeGpr r v).npc = s.npc := by
  unfold State.writeGpr; split <;> rfl
@[simp] theorem State.writeGpr_inDelaySlot (s : State) (r : Reg) (v : Word) : (s.writeGpr r v).inDelaySlot = s.inDelaySlot := by
  unfold State.writeGpr; split <;> rfl
@[simp] theorem State.writeGpr_loadPending (s : State) (r : Reg) (v : Word) : (s.writeGpr r v).loadPending = s.loadPending := by
  unfold State.writeGpr; split <;> rfl
@[simp] theorem State.writeGpr_hi (s : State) (r : Reg) (v : Word) : (s.writeGpr r v).hi = s.hi := by
  unfold State.writeGpr; split <;> rfl
@[simp] theorem State.writeGpr_lo (s : State) (r : Reg) (v : Word) : (s.writeGpr r v).lo = s.lo := by
  unfold State.writeGpr; split <;> rfl
@[simp] theorem State.writeGpr_pairFresh (s : State) (r : Reg) (v : Word) : (s.writeGpr r v).pairFresh = s.pairFresh := by
  unfold State.writeGpr; split <;> rfl
@[simp] theorem State.writeGpr_hist1 (s : State) (r : Reg) (v : Word) : (s.writeGpr r v).hist1 = s.hist1 := by
  unfold State.writeGpr; split <;> rfl
@[simp] theorem State.writeGpr_hist2 (s : State) (r : Reg) (v : Word) : (s.writeGpr r v).hist2 = s.hist2 := by
  unfold State.writeGpr; split <;> rfl
@[simp] theorem State.writeGpr_llBit (s : State) (r : Reg) (v : Word) : (s.writeGpr r v).llBit = s.llBit := by
  unfold State.writeGpr; split <;> rfl
@[simp] theorem State.writeGpr_llAddr (s : State) (r : Reg) (v : Word) : (s.writeGpr r v).llAddr = s.llAddr := by
  unfold State.writeGpr; split <;> rfl
@[simp] theorem State.writeGpr_llVa (s : State) (r : Reg) (v : Word) : (s.writeGpr r v).llVa = s.llVa := by
  unfold State.writeGpr; split <;> rfl
@[simp] theorem State.writeGpr_llAttr (s : State) (r : Reg) (v : Word) : (s.writeGpr r v).llAttr = s.llAttr := by
  unfold State.writeGpr; split <;> rfl
@[simp] theorem State.writeGpr_llLo (s : State) (r : Reg) (v : Word) : (s.writeGpr r v).llLo = s.llLo := by
  unfold State.writeGpr; split <;> rfl
@[simp] theorem State.writeGpr_llHi (s : State) (r : Reg) (v : Word) : (s.writeGpr r v).llHi = s.llHi := by
  unfold State.writeGpr; split <;> rfl
@[simp] theorem State.writeGpr_cp0 (s : State) (r : Reg) (v : Word) : (s.writeGpr r v).cp0 = s.cp0 := by
  unfold State.writeGpr; split <;> rfl
@[simp] theorem State.writeGpr_tlb (s : State) (r : Reg) (v : Word) : (s.writeGpr r v).tlb = s.tlb := by
  unfold State.writeGpr; split <;> rfl
@[simp] theorem State.writeGpr_fpr (s : State) (r : Reg) (v : Word) : (s.writeGpr r v).fpr = s.fpr := by
  unfold State.writeGpr; split <;> rfl
@[simp] theorem State.writeGpr_fprTag (s : State) (r : Reg) (v : Word) : (s.writeGpr r v).fprTag = s.fprTag := by
  unfold State.writeGpr; split <;> rfl
@[simp] theorem State.writeGpr_fcsr (s : State) (r : Reg) (v : Word) : (s.writeGpr r v).fcsr = s.fcsr := by
  unfold State.writeGpr; split <;> rfl
@[simp] theorem State.writeGpr_mem (s : State) (r : Reg) (v : Word) : (s.writeGpr r v).mem = s.mem := by
  unfold State.writeGpr; split <;> rfl
@[simp] theorem State.writeGpr_waiting (s : State) (r : Reg) (v : Word) : (s.writeGpr r v).waiting = s.waiting := by
  unfold State.writeGpr; split <;> rfl
@[simp] theorem State.writeGpr_cfg (s : State) (r : Reg) (v : Word) : (s.writeGpr r v).cfg = s.cfg := by
  unfold State.writeGpr; split <;> rfl
@[simp] theorem State.writeGpr_env (s : State) (r : Reg) (v : Word) : (s.writeGpr r v).env = s.env := by
  unfold State.writeGpr; split <;> rfl
@[simp] theorem State.writeGpr_draws (s : State) (r : Reg) (v : Word) : (s.writeGpr r v).draws = s.draws := by
  unfold State.writeGpr; split <;> rfl


@[simp] theorem State.noteExtent_gpr (s : State) : (s.noteExtent).gpr = s.gpr := by
  unfold State.noteExtent; split <;> rfl
@[simp] theorem State.noteExtent_pc (s : State) : (s.noteExtent).pc = s.pc := by
  unfold State.noteExtent; split <;> rfl
@[simp] theorem State.noteExtent_npc (s : State) : (s.noteExtent).npc = s.npc := by
  unfold State.noteExtent; split <;> rfl
@[simp] theorem State.noteExtent_inDelaySlot (s : State) : (s.noteExtent).inDelaySlot = s.inDelaySlot := by
  unfold State.noteExtent; split <;> rfl
@[simp] theorem State.noteExtent_loadPending (s : State) : (s.noteExtent).loadPending = s.loadPending := by
  unfold State.noteExtent; split <;> rfl
@[simp] theorem State.noteExtent_hi (s : State) : (s.noteExtent).hi = s.hi := by
  unfold State.noteExtent; split <;> rfl
@[simp] theorem State.noteExtent_lo (s : State) : (s.noteExtent).lo = s.lo := by
  unfold State.noteExtent; split <;> rfl
@[simp] theorem State.noteExtent_pairFresh (s : State) : (s.noteExtent).pairFresh = s.pairFresh := by
  unfold State.noteExtent; split <;> rfl
@[simp] theorem State.noteExtent_hist1 (s : State) : (s.noteExtent).hist1 = s.hist1 := by
  unfold State.noteExtent; split <;> rfl
@[simp] theorem State.noteExtent_hist2 (s : State) : (s.noteExtent).hist2 = s.hist2 := by
  unfold State.noteExtent; split <;> rfl
@[simp] theorem State.noteExtent_llBit (s : State) : (s.noteExtent).llBit = s.llBit := by
  unfold State.noteExtent; split <;> rfl
@[simp] theorem State.noteExtent_llAddr (s : State) : (s.noteExtent).llAddr = s.llAddr := by
  unfold State.noteExtent; split <;> rfl
@[simp] theorem State.noteExtent_llVa (s : State) : (s.noteExtent).llVa = s.llVa := by
  unfold State.noteExtent; split <;> rfl
@[simp] theorem State.noteExtent_llAttr (s : State) : (s.noteExtent).llAttr = s.llAttr := by
  unfold State.noteExtent; split <;> rfl
@[simp] theorem State.noteExtent_cp0 (s : State) : (s.noteExtent).cp0 = s.cp0 := by
  unfold State.noteExtent; split <;> rfl
@[simp] theorem State.noteExtent_tlb (s : State) : (s.noteExtent).tlb = s.tlb := by
  unfold State.noteExtent; split <;> rfl
@[simp] theorem State.noteExtent_fpr (s : State) : (s.noteExtent).fpr = s.fpr := by
  unfold State.noteExtent; split <;> rfl
@[simp] theorem State.noteExtent_fprTag (s : State) : (s.noteExtent).fprTag = s.fprTag := by
  unfold State.noteExtent; split <;> rfl
@[simp] theorem State.noteExtent_fcsr (s : State) : (s.noteExtent).fcsr = s.fcsr := by
  unfold State.noteExtent; split <;> rfl
@[simp] theorem State.noteExtent_mem (s : State) : (s.noteExtent).mem = s.mem := by
  unfold State.noteExtent; split <;> rfl
@[simp] theorem State.noteExtent_waiting (s : State) : (s.noteExtent).waiting = s.waiting := by
  unfold State.noteExtent; split <;> rfl
@[simp] theorem State.noteExtent_cfg (s : State) : (s.noteExtent).cfg = s.cfg := by
  unfold State.noteExtent; split <;> rfl
@[simp] theorem State.noteExtent_env (s : State) : (s.noteExtent).env = s.env := by
  unfold State.noteExtent; split <;> rfl
@[simp] theorem State.noteExtent_draws (s : State) : (s.noteExtent).draws = s.draws := by
  unfold State.noteExtent; split <;> rfl

@[simp] theorem State.retire_gpr (s : State) (l : List Reg) : (s.retire l).gpr = s.gpr := by
  simp [State.retire]
@[simp] theorem State.retire_pc (s : State) (l : List Reg) : (s.retire l).pc = s.npc := by
  simp [State.retire]
@[simp] theorem State.retire_npc (s : State) (l : List Reg) : (s.retire l).npc = s.npc + 4 := by
  simp [State.retire]
@[simp] theorem State.retire_inDelaySlot (s : State) (l : List Reg) : (s.retire l).inDelaySlot = false := by
  simp [State.retire]
@[simp] theorem State.retire_loadPending (s : State) (l : List Reg) : (s.retire l).loadPending = none := by
  simp [State.retire]
@[simp] theorem State.retire_hi (s : State) (l : List Reg) : (s.retire l).hi = s.hi := by
  simp [State.retire]
@[simp] theorem State.retire_lo (s : State) (l : List Reg) : (s.retire l).lo = s.lo := by
  simp [State.retire]
@[simp] theorem State.retire_pairFresh (s : State) (l : List Reg) : (s.retire l).pairFresh = s.pairFresh := by
  simp [State.retire]
@[simp] theorem State.retire_hist1 (s : State) (l : List Reg) : (s.retire l).hist1 = none := by
  simp [State.retire]
@[simp] theorem State.retire_hist2 (s : State) (l : List Reg) : (s.retire l).hist2 = s.hist1.bind (HiLoRead.noteWrites l) := by
  simp [State.retire]
@[simp] theorem State.retire_llBit (s : State) (l : List Reg) : (s.retire l).llBit = s.llBit := by
  simp [State.retire]
@[simp] theorem State.retire_llAddr (s : State) (l : List Reg) : (s.retire l).llAddr = s.llAddr := by
  simp [State.retire]
@[simp] theorem State.retire_llVa (s : State) (l : List Reg) : (s.retire l).llVa = s.llVa := by
  simp [State.retire]
@[simp] theorem State.retire_llAttr (s : State) (l : List Reg) : (s.retire l).llAttr = s.llAttr := by
  simp [State.retire]
@[simp] theorem State.retire_llLo (s : State) (l : List Reg) : (s.retire l).llLo = s.noteExtent.llLo := by
  simp [State.retire]
@[simp] theorem State.retire_llHi (s : State) (l : List Reg) : (s.retire l).llHi = s.noteExtent.llHi := by
  simp [State.retire]
@[simp] theorem State.retire_cp0 (s : State) (l : List Reg) : (s.retire l).cp0 = s.cp0 := by
  simp [State.retire]
@[simp] theorem State.retire_tlb (s : State) (l : List Reg) : (s.retire l).tlb = s.tlb := by
  simp [State.retire]
@[simp] theorem State.retire_fpr (s : State) (l : List Reg) : (s.retire l).fpr = s.fpr := by
  simp [State.retire]
@[simp] theorem State.retire_fprTag (s : State) (l : List Reg) : (s.retire l).fprTag = s.fprTag := by
  simp [State.retire]
@[simp] theorem State.retire_fcsr (s : State) (l : List Reg) : (s.retire l).fcsr = s.fcsr := by
  simp [State.retire]
@[simp] theorem State.retire_mem (s : State) (l : List Reg) : (s.retire l).mem = s.mem := by
  simp [State.retire]
@[simp] theorem State.retire_waiting (s : State) (l : List Reg) : (s.retire l).waiting = s.waiting := by
  simp [State.retire]
@[simp] theorem State.retire_cfg (s : State) (l : List Reg) : (s.retire l).cfg = s.cfg := by
  simp [State.retire]
@[simp] theorem State.retire_env (s : State) (l : List Reg) : (s.retire l).env = s.env := by
  simp [State.retire]
@[simp] theorem State.retire_draws (s : State) (l : List Reg) : (s.retire l).draws = s.draws := by
  simp [State.retire]

@[simp] theorem State.jumpTo_gpr (s : State) (a : Word) : (s.jumpTo a).gpr = s.gpr := rfl
@[simp] theorem State.jumpTo_pc (s : State) (a : Word) : (s.jumpTo a).pc = s.pc := rfl
@[simp] theorem State.jumpTo_npc (s : State) (a : Word) : (s.jumpTo a).npc = a := rfl
@[simp] theorem State.jumpTo_inDelaySlot (s : State) (a : Word) : (s.jumpTo a).inDelaySlot = true := rfl
@[simp] theorem State.jumpTo_loadPending (s : State) (a : Word) : (s.jumpTo a).loadPending = s.loadPending := rfl
@[simp] theorem State.jumpTo_hi (s : State) (a : Word) : (s.jumpTo a).hi = s.hi := rfl
@[simp] theorem State.jumpTo_lo (s : State) (a : Word) : (s.jumpTo a).lo = s.lo := rfl
@[simp] theorem State.jumpTo_pairFresh (s : State) (a : Word) : (s.jumpTo a).pairFresh = s.pairFresh := rfl
@[simp] theorem State.jumpTo_hist1 (s : State) (a : Word) : (s.jumpTo a).hist1 = s.hist1 := rfl
@[simp] theorem State.jumpTo_hist2 (s : State) (a : Word) : (s.jumpTo a).hist2 = s.hist2 := rfl
@[simp] theorem State.jumpTo_llBit (s : State) (a : Word) : (s.jumpTo a).llBit = s.llBit := rfl
@[simp] theorem State.jumpTo_llAddr (s : State) (a : Word) : (s.jumpTo a).llAddr = s.llAddr := rfl
@[simp] theorem State.jumpTo_llVa (s : State) (a : Word) : (s.jumpTo a).llVa = s.llVa := rfl
@[simp] theorem State.jumpTo_llAttr (s : State) (a : Word) : (s.jumpTo a).llAttr = s.llAttr := rfl
@[simp] theorem State.jumpTo_llLo (s : State) (a : Word) : (s.jumpTo a).llLo = s.llLo := rfl
@[simp] theorem State.jumpTo_llHi (s : State) (a : Word) : (s.jumpTo a).llHi = s.llHi := rfl
@[simp] theorem State.jumpTo_cp0 (s : State) (a : Word) : (s.jumpTo a).cp0 = s.cp0 := rfl
@[simp] theorem State.jumpTo_tlb (s : State) (a : Word) : (s.jumpTo a).tlb = s.tlb := rfl
@[simp] theorem State.jumpTo_fpr (s : State) (a : Word) : (s.jumpTo a).fpr = s.fpr := rfl
@[simp] theorem State.jumpTo_fprTag (s : State) (a : Word) : (s.jumpTo a).fprTag = s.fprTag := rfl
@[simp] theorem State.jumpTo_fcsr (s : State) (a : Word) : (s.jumpTo a).fcsr = s.fcsr := rfl
@[simp] theorem State.jumpTo_mem (s : State) (a : Word) : (s.jumpTo a).mem = s.mem := rfl
@[simp] theorem State.jumpTo_waiting (s : State) (a : Word) : (s.jumpTo a).waiting = s.waiting := rfl
@[simp] theorem State.jumpTo_cfg (s : State) (a : Word) : (s.jumpTo a).cfg = s.cfg := rfl
@[simp] theorem State.jumpTo_env (s : State) (a : Word) : (s.jumpTo a).env = s.env := rfl
@[simp] theorem State.jumpTo_draws (s : State) (a : Word) : (s.jumpTo a).draws = s.draws := rfl

@[simp] theorem State.fallThrough_gpr (s : State) : (s.fallThrough).gpr = s.gpr := rfl
@[simp] theorem State.fallThrough_pc (s : State) : (s.fallThrough).pc = s.pc := rfl
@[simp] theorem State.fallThrough_npc (s : State) : (s.fallThrough).npc = s.npc := rfl
@[simp] theorem State.fallThrough_inDelaySlot (s : State) : (s.fallThrough).inDelaySlot = true := rfl
@[simp] theorem State.fallThrough_loadPending (s : State) : (s.fallThrough).loadPending = s.loadPending := rfl
@[simp] theorem State.fallThrough_hi (s : State) : (s.fallThrough).hi = s.hi := rfl
@[simp] theorem State.fallThrough_lo (s : State) : (s.fallThrough).lo = s.lo := rfl
@[simp] theorem State.fallThrough_pairFresh (s : State) : (s.fallThrough).pairFresh = s.pairFresh := rfl
@[simp] theorem State.fallThrough_hist1 (s : State) : (s.fallThrough).hist1 = s.hist1 := rfl
@[simp] theorem State.fallThrough_hist2 (s : State) : (s.fallThrough).hist2 = s.hist2 := rfl
@[simp] theorem State.fallThrough_llBit (s : State) : (s.fallThrough).llBit = s.llBit := rfl
@[simp] theorem State.fallThrough_llAddr (s : State) : (s.fallThrough).llAddr = s.llAddr := rfl
@[simp] theorem State.fallThrough_llVa (s : State) : (s.fallThrough).llVa = s.llVa := rfl
@[simp] theorem State.fallThrough_llAttr (s : State) : (s.fallThrough).llAttr = s.llAttr := rfl
@[simp] theorem State.fallThrough_llLo (s : State) : (s.fallThrough).llLo = s.llLo := rfl
@[simp] theorem State.fallThrough_llHi (s : State) : (s.fallThrough).llHi = s.llHi := rfl
@[simp] theorem State.fallThrough_cp0 (s : State) : (s.fallThrough).cp0 = s.cp0 := rfl
@[simp] theorem State.fallThrough_tlb (s : State) : (s.fallThrough).tlb = s.tlb := rfl
@[simp] theorem State.fallThrough_fpr (s : State) : (s.fallThrough).fpr = s.fpr := rfl
@[simp] theorem State.fallThrough_fprTag (s : State) : (s.fallThrough).fprTag = s.fprTag := rfl
@[simp] theorem State.fallThrough_fcsr (s : State) : (s.fallThrough).fcsr = s.fcsr := rfl
@[simp] theorem State.fallThrough_mem (s : State) : (s.fallThrough).mem = s.mem := rfl
@[simp] theorem State.fallThrough_waiting (s : State) : (s.fallThrough).waiting = s.waiting := rfl
@[simp] theorem State.fallThrough_cfg (s : State) : (s.fallThrough).cfg = s.cfg := rfl
@[simp] theorem State.fallThrough_env (s : State) : (s.fallThrough).env = s.env := rfl
@[simp] theorem State.fallThrough_draws (s : State) : (s.fallThrough).draws = s.draws := rfl

@[simp] theorem State.nullifySlot_gpr (s : State) (a : Word) : (s.nullifySlot a).gpr = s.gpr := rfl
@[simp] theorem State.nullifySlot_pc (s : State) (a : Word) : (s.nullifySlot a).pc = a + 8 := rfl
@[simp] theorem State.nullifySlot_npc (s : State) (a : Word) : (s.nullifySlot a).npc = a + 12 := rfl
@[simp] theorem State.nullifySlot_inDelaySlot (s : State) (a : Word) : (s.nullifySlot a).inDelaySlot = false := rfl
@[simp] theorem State.nullifySlot_loadPending (s : State) (a : Word) : (s.nullifySlot a).loadPending = s.loadPending := rfl
@[simp] theorem State.nullifySlot_hi (s : State) (a : Word) : (s.nullifySlot a).hi = s.hi := rfl
@[simp] theorem State.nullifySlot_lo (s : State) (a : Word) : (s.nullifySlot a).lo = s.lo := rfl
@[simp] theorem State.nullifySlot_pairFresh (s : State) (a : Word) : (s.nullifySlot a).pairFresh = s.pairFresh := rfl
@[simp] theorem State.nullifySlot_hist1 (s : State) (a : Word) : (s.nullifySlot a).hist1 = s.hist1 := rfl
@[simp] theorem State.nullifySlot_hist2 (s : State) (a : Word) : (s.nullifySlot a).hist2 = s.hist2 := rfl
@[simp] theorem State.nullifySlot_llBit (s : State) (a : Word) : (s.nullifySlot a).llBit = s.llBit := rfl
@[simp] theorem State.nullifySlot_llAddr (s : State) (a : Word) : (s.nullifySlot a).llAddr = s.llAddr := rfl
@[simp] theorem State.nullifySlot_llVa (s : State) (a : Word) : (s.nullifySlot a).llVa = s.llVa := rfl
@[simp] theorem State.nullifySlot_llAttr (s : State) (a : Word) : (s.nullifySlot a).llAttr = s.llAttr := rfl
@[simp] theorem State.nullifySlot_llLo (s : State) (a : Word) : (s.nullifySlot a).llLo = s.llLo := rfl
@[simp] theorem State.nullifySlot_llHi (s : State) (a : Word) : (s.nullifySlot a).llHi = s.llHi := rfl
@[simp] theorem State.nullifySlot_cp0 (s : State) (a : Word) : (s.nullifySlot a).cp0 = s.cp0 := rfl
@[simp] theorem State.nullifySlot_tlb (s : State) (a : Word) : (s.nullifySlot a).tlb = s.tlb := rfl
@[simp] theorem State.nullifySlot_fpr (s : State) (a : Word) : (s.nullifySlot a).fpr = s.fpr := rfl
@[simp] theorem State.nullifySlot_fprTag (s : State) (a : Word) : (s.nullifySlot a).fprTag = s.fprTag := rfl
@[simp] theorem State.nullifySlot_fcsr (s : State) (a : Word) : (s.nullifySlot a).fcsr = s.fcsr := rfl
@[simp] theorem State.nullifySlot_mem (s : State) (a : Word) : (s.nullifySlot a).mem = s.mem := rfl
@[simp] theorem State.nullifySlot_waiting (s : State) (a : Word) : (s.nullifySlot a).waiting = s.waiting := rfl
@[simp] theorem State.nullifySlot_cfg (s : State) (a : Word) : (s.nullifySlot a).cfg = s.cfg := rfl
@[simp] theorem State.nullifySlot_env (s : State) (a : Word) : (s.nullifySlot a).env = s.env := rfl
@[simp] theorem State.nullifySlot_draws (s : State) (a : Word) : (s.nullifySlot a).draws = s.draws := rfl

@[simp] theorem State.raise_gpr (s : State) (x : Exc) : (s.raise x).gpr = s.gpr := rfl
@[simp] theorem State.raise_pc (s : State) (x : Exc) : (s.raise x).pc = s.vector x := rfl
@[simp] theorem State.raise_npc (s : State) (x : Exc) : (s.raise x).npc = s.vector x + 4 := rfl
@[simp] theorem State.raise_inDelaySlot (s : State) (x : Exc) : (s.raise x).inDelaySlot = false := rfl
@[simp] theorem State.raise_loadPending (s : State) (x : Exc) : (s.raise x).loadPending = none := rfl
@[simp] theorem State.raise_hi (s : State) (x : Exc) : (s.raise x).hi = s.hi := rfl
@[simp] theorem State.raise_lo (s : State) (x : Exc) : (s.raise x).lo = s.lo := rfl
@[simp] theorem State.raise_pairFresh (s : State) (x : Exc) : (s.raise x).pairFresh = s.pairFresh := rfl
@[simp] theorem State.raise_hist1 (s : State) (x : Exc) : (s.raise x).hist1 = s.hist1 := rfl
@[simp] theorem State.raise_hist2 (s : State) (x : Exc) : (s.raise x).hist2 = s.hist2 := rfl
@[simp] theorem State.raise_llBit (s : State) (x : Exc) : (s.raise x).llBit = false := rfl
@[simp] theorem State.raise_llAddr (s : State) (x : Exc) : (s.raise x).llAddr = s.llAddr := rfl
@[simp] theorem State.raise_llVa (s : State) (x : Exc) : (s.raise x).llVa = s.llVa := rfl
@[simp] theorem State.raise_llAttr (s : State) (x : Exc) : (s.raise x).llAttr = s.llAttr := rfl
@[simp] theorem State.raise_llLo (s : State) (x : Exc) : (s.raise x).llLo = s.llLo := rfl
@[simp] theorem State.raise_llHi (s : State) (x : Exc) : (s.raise x).llHi = s.llHi := rfl
@[simp] theorem State.raise_cp0 (s : State) (x : Exc) : (s.raise x).cp0 = s.cp0.enter x s.restartAddress s.inDelaySlot := rfl
@[simp] theorem State.raise_tlb (s : State) (x : Exc) : (s.raise x).tlb = s.tlb := rfl
@[simp] theorem State.raise_fpr (s : State) (x : Exc) : (s.raise x).fpr = s.fpr := rfl
@[simp] theorem State.raise_fprTag (s : State) (x : Exc) : (s.raise x).fprTag = s.fprTag := rfl
@[simp] theorem State.raise_fcsr (s : State) (x : Exc) : (s.raise x).fcsr = s.fcsr := rfl
@[simp] theorem State.raise_mem (s : State) (x : Exc) : (s.raise x).mem = s.mem := rfl
@[simp] theorem State.raise_waiting (s : State) (x : Exc) : (s.raise x).waiting = s.waiting := rfl
@[simp] theorem State.raise_cfg (s : State) (x : Exc) : (s.raise x).cfg = s.cfg := rfl
@[simp] theorem State.raise_env (s : State) (x : Exc) : (s.raise x).env = s.env := rfl
@[simp] theorem State.raise_draws (s : State) (x : Exc) : (s.raise x).draws = s.draws := rfl

@[simp] theorem State.returnFromException_gpr (s : State) : (s.returnFromException).gpr = s.gpr := rfl
@[simp] theorem State.returnFromException_pc (s : State) : (s.returnFromException).pc = (if s.cp0.erl then s.cp0.errorEpc else s.cp0.epc) := rfl
@[simp] theorem State.returnFromException_npc (s : State) : (s.returnFromException).npc = (if s.cp0.erl then s.cp0.errorEpc else s.cp0.epc) + 4 := rfl
@[simp] theorem State.returnFromException_inDelaySlot (s : State) : (s.returnFromException).inDelaySlot = false := rfl
@[simp] theorem State.returnFromException_loadPending (s : State) : (s.returnFromException).loadPending = s.loadPending := rfl
@[simp] theorem State.returnFromException_hi (s : State) : (s.returnFromException).hi = s.hi := rfl
@[simp] theorem State.returnFromException_lo (s : State) : (s.returnFromException).lo = s.lo := rfl
@[simp] theorem State.returnFromException_pairFresh (s : State) : (s.returnFromException).pairFresh = s.pairFresh := rfl
@[simp] theorem State.returnFromException_hist1 (s : State) : (s.returnFromException).hist1 = s.hist1 := rfl
@[simp] theorem State.returnFromException_hist2 (s : State) : (s.returnFromException).hist2 = s.hist2 := rfl
@[simp] theorem State.returnFromException_llBit (s : State) : (s.returnFromException).llBit = false := rfl
@[simp] theorem State.returnFromException_llAddr (s : State) : (s.returnFromException).llAddr = s.llAddr := rfl
@[simp] theorem State.returnFromException_llVa (s : State) : (s.returnFromException).llVa = s.llVa := rfl
@[simp] theorem State.returnFromException_llAttr (s : State) : (s.returnFromException).llAttr = s.llAttr := rfl
@[simp] theorem State.returnFromException_llLo (s : State) : (s.returnFromException).llLo = s.llLo := rfl
@[simp] theorem State.returnFromException_llHi (s : State) : (s.returnFromException).llHi = s.llHi := rfl
@[simp] theorem State.returnFromException_tlb (s : State) : (s.returnFromException).tlb = s.tlb := rfl
@[simp] theorem State.returnFromException_fpr (s : State) : (s.returnFromException).fpr = s.fpr := rfl
@[simp] theorem State.returnFromException_fprTag (s : State) : (s.returnFromException).fprTag = s.fprTag := rfl
@[simp] theorem State.returnFromException_fcsr (s : State) : (s.returnFromException).fcsr = s.fcsr := rfl
@[simp] theorem State.returnFromException_mem (s : State) : (s.returnFromException).mem = s.mem := rfl
@[simp] theorem State.returnFromException_waiting (s : State) : (s.returnFromException).waiting = s.waiting := rfl
@[simp] theorem State.returnFromException_cfg (s : State) : (s.returnFromException).cfg = s.cfg := rfl
@[simp] theorem State.returnFromException_env (s : State) : (s.returnFromException).env = s.env := rfl
@[simp] theorem State.returnFromException_draws (s : State) : (s.returnFromException).draws = s.draws := rfl

@[simp] theorem State.setByte_gpr (s : State) (a : Nat) (x : Byte) : (s.setByte a x).gpr = s.gpr := rfl
@[simp] theorem State.setByte_pc (s : State) (a : Nat) (x : Byte) : (s.setByte a x).pc = s.pc := rfl
@[simp] theorem State.setByte_npc (s : State) (a : Nat) (x : Byte) : (s.setByte a x).npc = s.npc := rfl
@[simp] theorem State.setByte_inDelaySlot (s : State) (a : Nat) (x : Byte) : (s.setByte a x).inDelaySlot = s.inDelaySlot := rfl
@[simp] theorem State.setByte_loadPending (s : State) (a : Nat) (x : Byte) : (s.setByte a x).loadPending = s.loadPending := rfl
@[simp] theorem State.setByte_hi (s : State) (a : Nat) (x : Byte) : (s.setByte a x).hi = s.hi := rfl
@[simp] theorem State.setByte_lo (s : State) (a : Nat) (x : Byte) : (s.setByte a x).lo = s.lo := rfl
@[simp] theorem State.setByte_pairFresh (s : State) (a : Nat) (x : Byte) : (s.setByte a x).pairFresh = s.pairFresh := rfl
@[simp] theorem State.setByte_hist1 (s : State) (a : Nat) (x : Byte) : (s.setByte a x).hist1 = s.hist1 := rfl
@[simp] theorem State.setByte_hist2 (s : State) (a : Nat) (x : Byte) : (s.setByte a x).hist2 = s.hist2 := rfl
@[simp] theorem State.setByte_llBit (s : State) (a : Nat) (x : Byte) : (s.setByte a x).llBit = s.llBit := rfl
@[simp] theorem State.setByte_llAddr (s : State) (a : Nat) (x : Byte) : (s.setByte a x).llAddr = s.llAddr := rfl
@[simp] theorem State.setByte_llVa (s : State) (a : Nat) (x : Byte) : (s.setByte a x).llVa = s.llVa := rfl
@[simp] theorem State.setByte_llAttr (s : State) (a : Nat) (x : Byte) : (s.setByte a x).llAttr = s.llAttr := rfl
@[simp] theorem State.setByte_llLo (s : State) (a : Nat) (x : Byte) : (s.setByte a x).llLo = s.llLo := rfl
@[simp] theorem State.setByte_llHi (s : State) (a : Nat) (x : Byte) : (s.setByte a x).llHi = s.llHi := rfl
@[simp] theorem State.setByte_cp0 (s : State) (a : Nat) (x : Byte) : (s.setByte a x).cp0 = s.cp0 := rfl
@[simp] theorem State.setByte_tlb (s : State) (a : Nat) (x : Byte) : (s.setByte a x).tlb = s.tlb := rfl
@[simp] theorem State.setByte_fpr (s : State) (a : Nat) (x : Byte) : (s.setByte a x).fpr = s.fpr := rfl
@[simp] theorem State.setByte_fprTag (s : State) (a : Nat) (x : Byte) : (s.setByte a x).fprTag = s.fprTag := rfl
@[simp] theorem State.setByte_fcsr (s : State) (a : Nat) (x : Byte) : (s.setByte a x).fcsr = s.fcsr := rfl
@[simp] theorem State.setByte_mem (s : State) (a : Nat) (x : Byte) : (s.setByte a x).mem = s.mem.set a x := rfl
@[simp] theorem State.setByte_waiting (s : State) (a : Nat) (x : Byte) : (s.setByte a x).waiting = s.waiting := rfl
@[simp] theorem State.setByte_cfg (s : State) (a : Nat) (x : Byte) : (s.setByte a x).cfg = s.cfg := rfl
@[simp] theorem State.setByte_env (s : State) (a : Nat) (x : Byte) : (s.setByte a x).env = s.env := rfl
@[simp] theorem State.setByte_draws (s : State) (a : Nat) (x : Byte) : (s.setByte a x).draws = s.draws := rfl

@[simp] theorem State.setHalf_gpr (s : State) (a : Nat) (v : Half) : (s.setHalf a v).gpr = s.gpr := by
  unfold State.setHalf; split <;> simp
@[simp] theorem State.setHalf_pc (s : State) (a : Nat) (v : Half) : (s.setHalf a v).pc = s.pc := by
  unfold State.setHalf; split <;> simp
@[simp] theorem State.setHalf_npc (s : State) (a : Nat) (v : Half) : (s.setHalf a v).npc = s.npc := by
  unfold State.setHalf; split <;> simp
@[simp] theorem State.setHalf_inDelaySlot (s : State) (a : Nat) (v : Half) : (s.setHalf a v).inDelaySlot = s.inDelaySlot := by
  unfold State.setHalf; split <;> simp
@[simp] theorem State.setHalf_loadPending (s : State) (a : Nat) (v : Half) : (s.setHalf a v).loadPending = s.loadPending := by
  unfold State.setHalf; split <;> simp
@[simp] theorem State.setHalf_hi (s : State) (a : Nat) (v : Half) : (s.setHalf a v).hi = s.hi := by
  unfold State.setHalf; split <;> simp
@[simp] theorem State.setHalf_lo (s : State) (a : Nat) (v : Half) : (s.setHalf a v).lo = s.lo := by
  unfold State.setHalf; split <;> simp
@[simp] theorem State.setHalf_pairFresh (s : State) (a : Nat) (v : Half) : (s.setHalf a v).pairFresh = s.pairFresh := by
  unfold State.setHalf; split <;> simp
@[simp] theorem State.setHalf_hist1 (s : State) (a : Nat) (v : Half) : (s.setHalf a v).hist1 = s.hist1 := by
  unfold State.setHalf; split <;> simp
@[simp] theorem State.setHalf_hist2 (s : State) (a : Nat) (v : Half) : (s.setHalf a v).hist2 = s.hist2 := by
  unfold State.setHalf; split <;> simp
@[simp] theorem State.setHalf_llBit (s : State) (a : Nat) (v : Half) : (s.setHalf a v).llBit = s.llBit := by
  unfold State.setHalf; split <;> simp
@[simp] theorem State.setHalf_llAddr (s : State) (a : Nat) (v : Half) : (s.setHalf a v).llAddr = s.llAddr := by
  unfold State.setHalf; split <;> simp
@[simp] theorem State.setHalf_llVa (s : State) (a : Nat) (v : Half) : (s.setHalf a v).llVa = s.llVa := by
  unfold State.setHalf; split <;> simp
@[simp] theorem State.setHalf_llAttr (s : State) (a : Nat) (v : Half) : (s.setHalf a v).llAttr = s.llAttr := by
  unfold State.setHalf; split <;> simp
@[simp] theorem State.setHalf_llLo (s : State) (a : Nat) (v : Half) : (s.setHalf a v).llLo = s.llLo := by
  unfold State.setHalf; split <;> simp
@[simp] theorem State.setHalf_llHi (s : State) (a : Nat) (v : Half) : (s.setHalf a v).llHi = s.llHi := by
  unfold State.setHalf; split <;> simp
@[simp] theorem State.setHalf_cp0 (s : State) (a : Nat) (v : Half) : (s.setHalf a v).cp0 = s.cp0 := by
  unfold State.setHalf; split <;> simp
@[simp] theorem State.setHalf_tlb (s : State) (a : Nat) (v : Half) : (s.setHalf a v).tlb = s.tlb := by
  unfold State.setHalf; split <;> simp
@[simp] theorem State.setHalf_fpr (s : State) (a : Nat) (v : Half) : (s.setHalf a v).fpr = s.fpr := by
  unfold State.setHalf; split <;> simp
@[simp] theorem State.setHalf_fprTag (s : State) (a : Nat) (v : Half) : (s.setHalf a v).fprTag = s.fprTag := by
  unfold State.setHalf; split <;> simp
@[simp] theorem State.setHalf_fcsr (s : State) (a : Nat) (v : Half) : (s.setHalf a v).fcsr = s.fcsr := by
  unfold State.setHalf; split <;> simp
@[simp] theorem State.setHalf_waiting (s : State) (a : Nat) (v : Half) : (s.setHalf a v).waiting = s.waiting := by
  unfold State.setHalf; split <;> simp
@[simp] theorem State.setHalf_cfg (s : State) (a : Nat) (v : Half) : (s.setHalf a v).cfg = s.cfg := by
  unfold State.setHalf; split <;> simp
@[simp] theorem State.setHalf_env (s : State) (a : Nat) (v : Half) : (s.setHalf a v).env = s.env := by
  unfold State.setHalf; split <;> simp
@[simp] theorem State.setHalf_draws (s : State) (a : Nat) (v : Half) : (s.setHalf a v).draws = s.draws := by
  unfold State.setHalf; split <;> simp

@[simp] theorem State.setWord_gpr (s : State) (a : Nat) (v : Word) : (s.setWord a v).gpr = s.gpr := by
  unfold State.setWord; split <;> simp
@[simp] theorem State.setWord_pc (s : State) (a : Nat) (v : Word) : (s.setWord a v).pc = s.pc := by
  unfold State.setWord; split <;> simp
@[simp] theorem State.setWord_npc (s : State) (a : Nat) (v : Word) : (s.setWord a v).npc = s.npc := by
  unfold State.setWord; split <;> simp
@[simp] theorem State.setWord_inDelaySlot (s : State) (a : Nat) (v : Word) : (s.setWord a v).inDelaySlot = s.inDelaySlot := by
  unfold State.setWord; split <;> simp
@[simp] theorem State.setWord_loadPending (s : State) (a : Nat) (v : Word) : (s.setWord a v).loadPending = s.loadPending := by
  unfold State.setWord; split <;> simp
@[simp] theorem State.setWord_hi (s : State) (a : Nat) (v : Word) : (s.setWord a v).hi = s.hi := by
  unfold State.setWord; split <;> simp
@[simp] theorem State.setWord_lo (s : State) (a : Nat) (v : Word) : (s.setWord a v).lo = s.lo := by
  unfold State.setWord; split <;> simp
@[simp] theorem State.setWord_pairFresh (s : State) (a : Nat) (v : Word) : (s.setWord a v).pairFresh = s.pairFresh := by
  unfold State.setWord; split <;> simp
@[simp] theorem State.setWord_hist1 (s : State) (a : Nat) (v : Word) : (s.setWord a v).hist1 = s.hist1 := by
  unfold State.setWord; split <;> simp
@[simp] theorem State.setWord_hist2 (s : State) (a : Nat) (v : Word) : (s.setWord a v).hist2 = s.hist2 := by
  unfold State.setWord; split <;> simp
@[simp] theorem State.setWord_llBit (s : State) (a : Nat) (v : Word) : (s.setWord a v).llBit = s.llBit := by
  unfold State.setWord; split <;> simp
@[simp] theorem State.setWord_llAddr (s : State) (a : Nat) (v : Word) : (s.setWord a v).llAddr = s.llAddr := by
  unfold State.setWord; split <;> simp
@[simp] theorem State.setWord_llVa (s : State) (a : Nat) (v : Word) : (s.setWord a v).llVa = s.llVa := by
  unfold State.setWord; split <;> simp
@[simp] theorem State.setWord_llAttr (s : State) (a : Nat) (v : Word) : (s.setWord a v).llAttr = s.llAttr := by
  unfold State.setWord; split <;> simp
@[simp] theorem State.setWord_llLo (s : State) (a : Nat) (v : Word) : (s.setWord a v).llLo = s.llLo := by
  unfold State.setWord; split <;> simp
@[simp] theorem State.setWord_llHi (s : State) (a : Nat) (v : Word) : (s.setWord a v).llHi = s.llHi := by
  unfold State.setWord; split <;> simp
@[simp] theorem State.setWord_cp0 (s : State) (a : Nat) (v : Word) : (s.setWord a v).cp0 = s.cp0 := by
  unfold State.setWord; split <;> simp
@[simp] theorem State.setWord_tlb (s : State) (a : Nat) (v : Word) : (s.setWord a v).tlb = s.tlb := by
  unfold State.setWord; split <;> simp
@[simp] theorem State.setWord_fpr (s : State) (a : Nat) (v : Word) : (s.setWord a v).fpr = s.fpr := by
  unfold State.setWord; split <;> simp
@[simp] theorem State.setWord_fprTag (s : State) (a : Nat) (v : Word) : (s.setWord a v).fprTag = s.fprTag := by
  unfold State.setWord; split <;> simp
@[simp] theorem State.setWord_fcsr (s : State) (a : Nat) (v : Word) : (s.setWord a v).fcsr = s.fcsr := by
  unfold State.setWord; split <;> simp
@[simp] theorem State.setWord_waiting (s : State) (a : Nat) (v : Word) : (s.setWord a v).waiting = s.waiting := by
  unfold State.setWord; split <;> simp
@[simp] theorem State.setWord_cfg (s : State) (a : Nat) (v : Word) : (s.setWord a v).cfg = s.cfg := by
  unfold State.setWord; split <;> simp
@[simp] theorem State.setWord_env (s : State) (a : Nat) (v : Word) : (s.setWord a v).env = s.env := by
  unfold State.setWord; split <;> simp
@[simp] theorem State.setWord_draws (s : State) (a : Nat) (v : Word) : (s.setWord a v).draws = s.draws := by
  unfold State.setWord; split <;> simp

@[simp] theorem State.setDword_gpr (s : State) (a : Nat) (v : DWord) : (s.setDword a v).gpr = s.gpr := by
  unfold State.setDword; split <;> simp
@[simp] theorem State.setDword_pc (s : State) (a : Nat) (v : DWord) : (s.setDword a v).pc = s.pc := by
  unfold State.setDword; split <;> simp
@[simp] theorem State.setDword_npc (s : State) (a : Nat) (v : DWord) : (s.setDword a v).npc = s.npc := by
  unfold State.setDword; split <;> simp
@[simp] theorem State.setDword_inDelaySlot (s : State) (a : Nat) (v : DWord) : (s.setDword a v).inDelaySlot = s.inDelaySlot := by
  unfold State.setDword; split <;> simp
@[simp] theorem State.setDword_loadPending (s : State) (a : Nat) (v : DWord) : (s.setDword a v).loadPending = s.loadPending := by
  unfold State.setDword; split <;> simp
@[simp] theorem State.setDword_hi (s : State) (a : Nat) (v : DWord) : (s.setDword a v).hi = s.hi := by
  unfold State.setDword; split <;> simp
@[simp] theorem State.setDword_lo (s : State) (a : Nat) (v : DWord) : (s.setDword a v).lo = s.lo := by
  unfold State.setDword; split <;> simp
@[simp] theorem State.setDword_pairFresh (s : State) (a : Nat) (v : DWord) : (s.setDword a v).pairFresh = s.pairFresh := by
  unfold State.setDword; split <;> simp
@[simp] theorem State.setDword_hist1 (s : State) (a : Nat) (v : DWord) : (s.setDword a v).hist1 = s.hist1 := by
  unfold State.setDword; split <;> simp
@[simp] theorem State.setDword_hist2 (s : State) (a : Nat) (v : DWord) : (s.setDword a v).hist2 = s.hist2 := by
  unfold State.setDword; split <;> simp
@[simp] theorem State.setDword_llBit (s : State) (a : Nat) (v : DWord) : (s.setDword a v).llBit = s.llBit := by
  unfold State.setDword; split <;> simp
@[simp] theorem State.setDword_llAddr (s : State) (a : Nat) (v : DWord) : (s.setDword a v).llAddr = s.llAddr := by
  unfold State.setDword; split <;> simp
@[simp] theorem State.setDword_llVa (s : State) (a : Nat) (v : DWord) : (s.setDword a v).llVa = s.llVa := by
  unfold State.setDword; split <;> simp
@[simp] theorem State.setDword_llAttr (s : State) (a : Nat) (v : DWord) : (s.setDword a v).llAttr = s.llAttr := by
  unfold State.setDword; split <;> simp
@[simp] theorem State.setDword_llLo (s : State) (a : Nat) (v : DWord) : (s.setDword a v).llLo = s.llLo := by
  unfold State.setDword; split <;> simp
@[simp] theorem State.setDword_llHi (s : State) (a : Nat) (v : DWord) : (s.setDword a v).llHi = s.llHi := by
  unfold State.setDword; split <;> simp
@[simp] theorem State.setDword_cp0 (s : State) (a : Nat) (v : DWord) : (s.setDword a v).cp0 = s.cp0 := by
  unfold State.setDword; split <;> simp
@[simp] theorem State.setDword_tlb (s : State) (a : Nat) (v : DWord) : (s.setDword a v).tlb = s.tlb := by
  unfold State.setDword; split <;> simp
@[simp] theorem State.setDword_fpr (s : State) (a : Nat) (v : DWord) : (s.setDword a v).fpr = s.fpr := by
  unfold State.setDword; split <;> simp
@[simp] theorem State.setDword_fprTag (s : State) (a : Nat) (v : DWord) : (s.setDword a v).fprTag = s.fprTag := by
  unfold State.setDword; split <;> simp
@[simp] theorem State.setDword_fcsr (s : State) (a : Nat) (v : DWord) : (s.setDword a v).fcsr = s.fcsr := by
  unfold State.setDword; split <;> simp
@[simp] theorem State.setDword_waiting (s : State) (a : Nat) (v : DWord) : (s.setDword a v).waiting = s.waiting := by
  unfold State.setDword; split <;> simp
@[simp] theorem State.setDword_cfg (s : State) (a : Nat) (v : DWord) : (s.setDword a v).cfg = s.cfg := by
  unfold State.setDword; split <;> simp
@[simp] theorem State.setDword_env (s : State) (a : Nat) (v : DWord) : (s.setDword a v).env = s.env := by
  unfold State.setDword; split <;> simp
@[simp] theorem State.setDword_draws (s : State) (a : Nat) (v : DWord) : (s.setDword a v).draws = s.draws := by
  unfold State.setDword; split <;> simp

@[simp] theorem State.setLane_gpr (s : State) (a : Nat) (c : Nat → Bool) (w : Word) (k : Nat) : (s.setLane a c w k).gpr = s.gpr := by
  unfold State.setLane; split <;> simp
@[simp] theorem State.setLane_pc (s : State) (a : Nat) (c : Nat → Bool) (w : Word) (k : Nat) : (s.setLane a c w k).pc = s.pc := by
  unfold State.setLane; split <;> simp
@[simp] theorem State.setLane_npc (s : State) (a : Nat) (c : Nat → Bool) (w : Word) (k : Nat) : (s.setLane a c w k).npc = s.npc := by
  unfold State.setLane; split <;> simp
@[simp] theorem State.setLane_inDelaySlot (s : State) (a : Nat) (c : Nat → Bool) (w : Word) (k : Nat) : (s.setLane a c w k).inDelaySlot = s.inDelaySlot := by
  unfold State.setLane; split <;> simp
@[simp] theorem State.setLane_loadPending (s : State) (a : Nat) (c : Nat → Bool) (w : Word) (k : Nat) : (s.setLane a c w k).loadPending = s.loadPending := by
  unfold State.setLane; split <;> simp
@[simp] theorem State.setLane_hi (s : State) (a : Nat) (c : Nat → Bool) (w : Word) (k : Nat) : (s.setLane a c w k).hi = s.hi := by
  unfold State.setLane; split <;> simp
@[simp] theorem State.setLane_lo (s : State) (a : Nat) (c : Nat → Bool) (w : Word) (k : Nat) : (s.setLane a c w k).lo = s.lo := by
  unfold State.setLane; split <;> simp
@[simp] theorem State.setLane_pairFresh (s : State) (a : Nat) (c : Nat → Bool) (w : Word) (k : Nat) : (s.setLane a c w k).pairFresh = s.pairFresh := by
  unfold State.setLane; split <;> simp
@[simp] theorem State.setLane_hist1 (s : State) (a : Nat) (c : Nat → Bool) (w : Word) (k : Nat) : (s.setLane a c w k).hist1 = s.hist1 := by
  unfold State.setLane; split <;> simp
@[simp] theorem State.setLane_hist2 (s : State) (a : Nat) (c : Nat → Bool) (w : Word) (k : Nat) : (s.setLane a c w k).hist2 = s.hist2 := by
  unfold State.setLane; split <;> simp
@[simp] theorem State.setLane_llBit (s : State) (a : Nat) (c : Nat → Bool) (w : Word) (k : Nat) : (s.setLane a c w k).llBit = s.llBit := by
  unfold State.setLane; split <;> simp
@[simp] theorem State.setLane_llAddr (s : State) (a : Nat) (c : Nat → Bool) (w : Word) (k : Nat) : (s.setLane a c w k).llAddr = s.llAddr := by
  unfold State.setLane; split <;> simp
@[simp] theorem State.setLane_llVa (s : State) (a : Nat) (c : Nat → Bool) (w : Word) (k : Nat) : (s.setLane a c w k).llVa = s.llVa := by
  unfold State.setLane; split <;> simp
@[simp] theorem State.setLane_llAttr (s : State) (a : Nat) (c : Nat → Bool) (w : Word) (k : Nat) : (s.setLane a c w k).llAttr = s.llAttr := by
  unfold State.setLane; split <;> simp
@[simp] theorem State.setLane_llLo (s : State) (a : Nat) (c : Nat → Bool) (w : Word) (k : Nat) : (s.setLane a c w k).llLo = s.llLo := by
  unfold State.setLane; split <;> simp
@[simp] theorem State.setLane_llHi (s : State) (a : Nat) (c : Nat → Bool) (w : Word) (k : Nat) : (s.setLane a c w k).llHi = s.llHi := by
  unfold State.setLane; split <;> simp
@[simp] theorem State.setLane_cp0 (s : State) (a : Nat) (c : Nat → Bool) (w : Word) (k : Nat) : (s.setLane a c w k).cp0 = s.cp0 := by
  unfold State.setLane; split <;> simp
@[simp] theorem State.setLane_tlb (s : State) (a : Nat) (c : Nat → Bool) (w : Word) (k : Nat) : (s.setLane a c w k).tlb = s.tlb := by
  unfold State.setLane; split <;> simp
@[simp] theorem State.setLane_fpr (s : State) (a : Nat) (c : Nat → Bool) (w : Word) (k : Nat) : (s.setLane a c w k).fpr = s.fpr := by
  unfold State.setLane; split <;> simp
@[simp] theorem State.setLane_fprTag (s : State) (a : Nat) (c : Nat → Bool) (w : Word) (k : Nat) : (s.setLane a c w k).fprTag = s.fprTag := by
  unfold State.setLane; split <;> simp
@[simp] theorem State.setLane_fcsr (s : State) (a : Nat) (c : Nat → Bool) (w : Word) (k : Nat) : (s.setLane a c w k).fcsr = s.fcsr := by
  unfold State.setLane; split <;> simp
@[simp] theorem State.setLane_waiting (s : State) (a : Nat) (c : Nat → Bool) (w : Word) (k : Nat) : (s.setLane a c w k).waiting = s.waiting := by
  unfold State.setLane; split <;> simp
@[simp] theorem State.setLane_cfg (s : State) (a : Nat) (c : Nat → Bool) (w : Word) (k : Nat) : (s.setLane a c w k).cfg = s.cfg := by
  unfold State.setLane; split <;> simp
@[simp] theorem State.setLane_env (s : State) (a : Nat) (c : Nat → Bool) (w : Word) (k : Nat) : (s.setLane a c w k).env = s.env := by
  unfold State.setLane; split <;> simp
@[simp] theorem State.setLane_draws (s : State) (a : Nat) (c : Nat → Bool) (w : Word) (k : Nat) : (s.setLane a c w k).draws = s.draws := by
  unfold State.setLane; split <;> simp

@[simp] theorem State.setLanes_gpr (s : State) (a : Nat) (c : Nat → Bool) (w : Word) : (s.setLanes a c w).gpr = s.gpr := by
  simp [State.setLanes]
@[simp] theorem State.setLanes_pc (s : State) (a : Nat) (c : Nat → Bool) (w : Word) : (s.setLanes a c w).pc = s.pc := by
  simp [State.setLanes]
@[simp] theorem State.setLanes_npc (s : State) (a : Nat) (c : Nat → Bool) (w : Word) : (s.setLanes a c w).npc = s.npc := by
  simp [State.setLanes]
@[simp] theorem State.setLanes_inDelaySlot (s : State) (a : Nat) (c : Nat → Bool) (w : Word) : (s.setLanes a c w).inDelaySlot = s.inDelaySlot := by
  simp [State.setLanes]
@[simp] theorem State.setLanes_loadPending (s : State) (a : Nat) (c : Nat → Bool) (w : Word) : (s.setLanes a c w).loadPending = s.loadPending := by
  simp [State.setLanes]
@[simp] theorem State.setLanes_hi (s : State) (a : Nat) (c : Nat → Bool) (w : Word) : (s.setLanes a c w).hi = s.hi := by
  simp [State.setLanes]
@[simp] theorem State.setLanes_lo (s : State) (a : Nat) (c : Nat → Bool) (w : Word) : (s.setLanes a c w).lo = s.lo := by
  simp [State.setLanes]
@[simp] theorem State.setLanes_pairFresh (s : State) (a : Nat) (c : Nat → Bool) (w : Word) : (s.setLanes a c w).pairFresh = s.pairFresh := by
  simp [State.setLanes]
@[simp] theorem State.setLanes_hist1 (s : State) (a : Nat) (c : Nat → Bool) (w : Word) : (s.setLanes a c w).hist1 = s.hist1 := by
  simp [State.setLanes]
@[simp] theorem State.setLanes_hist2 (s : State) (a : Nat) (c : Nat → Bool) (w : Word) : (s.setLanes a c w).hist2 = s.hist2 := by
  simp [State.setLanes]
@[simp] theorem State.setLanes_llBit (s : State) (a : Nat) (c : Nat → Bool) (w : Word) : (s.setLanes a c w).llBit = s.llBit := by
  simp [State.setLanes]
@[simp] theorem State.setLanes_llAddr (s : State) (a : Nat) (c : Nat → Bool) (w : Word) : (s.setLanes a c w).llAddr = s.llAddr := by
  simp [State.setLanes]
@[simp] theorem State.setLanes_llVa (s : State) (a : Nat) (c : Nat → Bool) (w : Word) : (s.setLanes a c w).llVa = s.llVa := by
  simp [State.setLanes]
@[simp] theorem State.setLanes_llAttr (s : State) (a : Nat) (c : Nat → Bool) (w : Word) : (s.setLanes a c w).llAttr = s.llAttr := by
  simp [State.setLanes]
@[simp] theorem State.setLanes_llLo (s : State) (a : Nat) (c : Nat → Bool) (w : Word) : (s.setLanes a c w).llLo = s.llLo := by
  simp [State.setLanes]
@[simp] theorem State.setLanes_llHi (s : State) (a : Nat) (c : Nat → Bool) (w : Word) : (s.setLanes a c w).llHi = s.llHi := by
  simp [State.setLanes]
@[simp] theorem State.setLanes_cp0 (s : State) (a : Nat) (c : Nat → Bool) (w : Word) : (s.setLanes a c w).cp0 = s.cp0 := by
  simp [State.setLanes]
@[simp] theorem State.setLanes_tlb (s : State) (a : Nat) (c : Nat → Bool) (w : Word) : (s.setLanes a c w).tlb = s.tlb := by
  simp [State.setLanes]
@[simp] theorem State.setLanes_fpr (s : State) (a : Nat) (c : Nat → Bool) (w : Word) : (s.setLanes a c w).fpr = s.fpr := by
  simp [State.setLanes]
@[simp] theorem State.setLanes_fprTag (s : State) (a : Nat) (c : Nat → Bool) (w : Word) : (s.setLanes a c w).fprTag = s.fprTag := by
  simp [State.setLanes]
@[simp] theorem State.setLanes_fcsr (s : State) (a : Nat) (c : Nat → Bool) (w : Word) : (s.setLanes a c w).fcsr = s.fcsr := by
  simp [State.setLanes]
@[simp] theorem State.setLanes_waiting (s : State) (a : Nat) (c : Nat → Bool) (w : Word) : (s.setLanes a c w).waiting = s.waiting := by
  simp [State.setLanes]
@[simp] theorem State.setLanes_cfg (s : State) (a : Nat) (c : Nat → Bool) (w : Word) : (s.setLanes a c w).cfg = s.cfg := by
  simp [State.setLanes]
@[simp] theorem State.setLanes_env (s : State) (a : Nat) (c : Nat → Bool) (w : Word) : (s.setLanes a c w).env = s.env := by
  simp [State.setLanes]
@[simp] theorem State.setLanes_draws (s : State) (a : Nat) (c : Nat → Bool) (w : Word) : (s.setLanes a c w).draws = s.draws := by
  simp [State.setLanes]

@[simp] theorem State.disturbLink_gpr (s : State) : (s.disturbLink).gpr = s.gpr := rfl
@[simp] theorem State.disturbLink_pc (s : State) : (s.disturbLink).pc = s.pc := rfl
@[simp] theorem State.disturbLink_npc (s : State) : (s.disturbLink).npc = s.npc := rfl
@[simp] theorem State.disturbLink_inDelaySlot (s : State) : (s.disturbLink).inDelaySlot = s.inDelaySlot := rfl
@[simp] theorem State.disturbLink_loadPending (s : State) : (s.disturbLink).loadPending = s.loadPending := rfl
@[simp] theorem State.disturbLink_hi (s : State) : (s.disturbLink).hi = s.hi := rfl
@[simp] theorem State.disturbLink_lo (s : State) : (s.disturbLink).lo = s.lo := rfl
@[simp] theorem State.disturbLink_pairFresh (s : State) : (s.disturbLink).pairFresh = s.pairFresh := rfl
@[simp] theorem State.disturbLink_hist1 (s : State) : (s.disturbLink).hist1 = s.hist1 := rfl
@[simp] theorem State.disturbLink_hist2 (s : State) : (s.disturbLink).hist2 = s.hist2 := rfl
@[simp] theorem State.disturbLink_llBit (s : State) : (s.disturbLink).llBit = (s.llBit && s.freeBit .linkDisturbed) := rfl
@[simp] theorem State.disturbLink_llAddr (s : State) : (s.disturbLink).llAddr = s.llAddr := rfl
@[simp] theorem State.disturbLink_llVa (s : State) : (s.disturbLink).llVa = s.llVa := rfl
@[simp] theorem State.disturbLink_llAttr (s : State) : (s.disturbLink).llAttr = s.llAttr := rfl
@[simp] theorem State.disturbLink_llLo (s : State) : (s.disturbLink).llLo = s.llLo := rfl
@[simp] theorem State.disturbLink_llHi (s : State) : (s.disturbLink).llHi = s.llHi := rfl
@[simp] theorem State.disturbLink_cp0 (s : State) : (s.disturbLink).cp0 = s.cp0 := rfl
@[simp] theorem State.disturbLink_tlb (s : State) : (s.disturbLink).tlb = s.tlb := rfl
@[simp] theorem State.disturbLink_fpr (s : State) : (s.disturbLink).fpr = s.fpr := rfl
@[simp] theorem State.disturbLink_fprTag (s : State) : (s.disturbLink).fprTag = s.fprTag := rfl
@[simp] theorem State.disturbLink_fcsr (s : State) : (s.disturbLink).fcsr = s.fcsr := rfl
@[simp] theorem State.disturbLink_mem (s : State) : (s.disturbLink).mem = s.mem := rfl
@[simp] theorem State.disturbLink_waiting (s : State) : (s.disturbLink).waiting = s.waiting := rfl
@[simp] theorem State.disturbLink_cfg (s : State) : (s.disturbLink).cfg = s.cfg := rfl
@[simp] theorem State.disturbLink_env (s : State) : (s.disturbLink).env = s.env := rfl
@[simp] theorem State.disturbLink_draws (s : State) : (s.disturbLink).draws = s.draws := rfl

@[simp] theorem State.finishLoad_pc (s : State) (r : Reg) (v : Word) : (s.finishLoad r v).pc = s.npc := by
  simp [State.finishLoad, State.freeBit, State.free]
@[simp] theorem State.finishLoad_npc (s : State) (r : Reg) (v : Word) : (s.finishLoad r v).npc = s.npc + 4 := by
  simp [State.finishLoad, State.freeBit, State.free]
@[simp] theorem State.finishLoad_inDelaySlot (s : State) (r : Reg) (v : Word) : (s.finishLoad r v).inDelaySlot = false := by
  simp [State.finishLoad, State.freeBit, State.free]
@[simp] theorem State.finishLoad_loadPending (s : State) (r : Reg) (v : Word) : (s.finishLoad r v).loadPending = some r := by
  simp [State.finishLoad, State.freeBit, State.free]
@[simp] theorem State.finishLoad_hi (s : State) (r : Reg) (v : Word) : (s.finishLoad r v).hi = s.hi := by
  simp [State.finishLoad, State.freeBit, State.free]
@[simp] theorem State.finishLoad_lo (s : State) (r : Reg) (v : Word) : (s.finishLoad r v).lo = s.lo := by
  simp [State.finishLoad, State.freeBit, State.free]
@[simp] theorem State.finishLoad_pairFresh (s : State) (r : Reg) (v : Word) : (s.finishLoad r v).pairFresh = s.pairFresh := by
  simp [State.finishLoad, State.freeBit, State.free]
@[simp] theorem State.finishLoad_hist1 (s : State) (r : Reg) (v : Word) : (s.finishLoad r v).hist1 = none := by
  simp [State.finishLoad, State.freeBit, State.free]
@[simp] theorem State.finishLoad_hist2 (s : State) (r : Reg) (v : Word) : (s.finishLoad r v).hist2 = s.hist1.bind (HiLoRead.noteWrites [r]) := by
  simp [State.finishLoad, State.freeBit, State.free]
@[simp] theorem State.finishLoad_llBit (s : State) (r : Reg) (v : Word) : (s.finishLoad r v).llBit = (s.llBit && s.freeBit .linkDisturbed) := by
  simp [State.finishLoad, State.freeBit, State.free]
@[simp] theorem State.finishLoad_llAddr (s : State) (r : Reg) (v : Word) : (s.finishLoad r v).llAddr = s.llAddr := by
  simp [State.finishLoad, State.freeBit, State.free]
@[simp] theorem State.finishLoad_llVa (s : State) (r : Reg) (v : Word) : (s.finishLoad r v).llVa = s.llVa := by
  simp [State.finishLoad, State.freeBit, State.free]
@[simp] theorem State.finishLoad_llAttr (s : State) (r : Reg) (v : Word) : (s.finishLoad r v).llAttr = s.llAttr := by
  simp [State.finishLoad, State.freeBit, State.free]
@[simp] theorem State.finishLoad_llLo (s : State) (r : Reg) (v : Word) : (s.finishLoad r v).llLo = s.noteExtent.llLo := by
  simp [State.finishLoad, State.freeBit, State.free]
@[simp] theorem State.finishLoad_llHi (s : State) (r : Reg) (v : Word) : (s.finishLoad r v).llHi = s.noteExtent.llHi := by
  simp [State.finishLoad, State.freeBit, State.free]
@[simp] theorem State.finishLoad_cp0 (s : State) (r : Reg) (v : Word) : (s.finishLoad r v).cp0 = s.cp0 := by
  simp [State.finishLoad, State.freeBit, State.free]
@[simp] theorem State.finishLoad_tlb (s : State) (r : Reg) (v : Word) : (s.finishLoad r v).tlb = s.tlb := by
  simp [State.finishLoad, State.freeBit, State.free]
@[simp] theorem State.finishLoad_fpr (s : State) (r : Reg) (v : Word) : (s.finishLoad r v).fpr = s.fpr := by
  simp [State.finishLoad, State.freeBit, State.free]
@[simp] theorem State.finishLoad_fprTag (s : State) (r : Reg) (v : Word) : (s.finishLoad r v).fprTag = s.fprTag := by
  simp [State.finishLoad, State.freeBit, State.free]
@[simp] theorem State.finishLoad_fcsr (s : State) (r : Reg) (v : Word) : (s.finishLoad r v).fcsr = s.fcsr := by
  simp [State.finishLoad, State.freeBit, State.free]
@[simp] theorem State.finishLoad_mem (s : State) (r : Reg) (v : Word) : (s.finishLoad r v).mem = s.mem := by
  simp [State.finishLoad, State.freeBit, State.free]
@[simp] theorem State.finishLoad_waiting (s : State) (r : Reg) (v : Word) : (s.finishLoad r v).waiting = s.waiting := by
  simp [State.finishLoad, State.freeBit, State.free]
@[simp] theorem State.finishLoad_cfg (s : State) (r : Reg) (v : Word) : (s.finishLoad r v).cfg = s.cfg := by
  simp [State.finishLoad, State.freeBit, State.free]
@[simp] theorem State.finishLoad_env (s : State) (r : Reg) (v : Word) : (s.finishLoad r v).env = s.env := by
  simp [State.finishLoad, State.freeBit, State.free]
@[simp] theorem State.finishLoad_draws (s : State) (r : Reg) (v : Word) : (s.finishLoad r v).draws = s.draws := by
  simp [State.finishLoad, State.freeBit, State.free]

@[simp] theorem State.finishSc_pc (s : State) (r : Reg) (ok : Bool) : (s.finishSc r ok).pc = s.npc := by
  simp [State.finishSc]
@[simp] theorem State.finishSc_npc (s : State) (r : Reg) (ok : Bool) : (s.finishSc r ok).npc = s.npc + 4 := by
  simp [State.finishSc]
@[simp] theorem State.finishSc_inDelaySlot (s : State) (r : Reg) (ok : Bool) : (s.finishSc r ok).inDelaySlot = false := by
  simp [State.finishSc]
@[simp] theorem State.finishSc_loadPending (s : State) (r : Reg) (ok : Bool) : (s.finishSc r ok).loadPending = none := by
  simp [State.finishSc]
@[simp] theorem State.finishSc_hi (s : State) (r : Reg) (ok : Bool) : (s.finishSc r ok).hi = s.hi := by
  simp [State.finishSc]
@[simp] theorem State.finishSc_lo (s : State) (r : Reg) (ok : Bool) : (s.finishSc r ok).lo = s.lo := by
  simp [State.finishSc]
@[simp] theorem State.finishSc_pairFresh (s : State) (r : Reg) (ok : Bool) : (s.finishSc r ok).pairFresh = s.pairFresh := by
  simp [State.finishSc]
@[simp] theorem State.finishSc_hist1 (s : State) (r : Reg) (ok : Bool) : (s.finishSc r ok).hist1 = none := by
  simp [State.finishSc]
@[simp] theorem State.finishSc_hist2 (s : State) (r : Reg) (ok : Bool) : (s.finishSc r ok).hist2 = s.hist1.bind (HiLoRead.noteWrites [r]) := by
  simp [State.finishSc]
@[simp] theorem State.finishSc_llBit (s : State) (r : Reg) (ok : Bool) : (s.finishSc r ok).llBit = false := by
  simp [State.finishSc]
@[simp] theorem State.finishSc_llAddr (s : State) (r : Reg) (ok : Bool) : (s.finishSc r ok).llAddr = s.llAddr := by
  simp [State.finishSc]
@[simp] theorem State.finishSc_llVa (s : State) (r : Reg) (ok : Bool) : (s.finishSc r ok).llVa = s.llVa := by
  simp [State.finishSc]
@[simp] theorem State.finishSc_llAttr (s : State) (r : Reg) (ok : Bool) : (s.finishSc r ok).llAttr = s.llAttr := by
  simp [State.finishSc]
@[simp] theorem State.finishSc_llLo (s : State) (r : Reg) (ok : Bool) : (s.finishSc r ok).llLo = s.noteExtent.llLo := by
  simp [State.finishSc]
@[simp] theorem State.finishSc_llHi (s : State) (r : Reg) (ok : Bool) : (s.finishSc r ok).llHi = s.noteExtent.llHi := by
  simp [State.finishSc]
@[simp] theorem State.finishSc_cp0 (s : State) (r : Reg) (ok : Bool) : (s.finishSc r ok).cp0 = s.cp0 := by
  simp [State.finishSc]
@[simp] theorem State.finishSc_tlb (s : State) (r : Reg) (ok : Bool) : (s.finishSc r ok).tlb = s.tlb := by
  simp [State.finishSc]
@[simp] theorem State.finishSc_fpr (s : State) (r : Reg) (ok : Bool) : (s.finishSc r ok).fpr = s.fpr := by
  simp [State.finishSc]
@[simp] theorem State.finishSc_fprTag (s : State) (r : Reg) (ok : Bool) : (s.finishSc r ok).fprTag = s.fprTag := by
  simp [State.finishSc]
@[simp] theorem State.finishSc_fcsr (s : State) (r : Reg) (ok : Bool) : (s.finishSc r ok).fcsr = s.fcsr := by
  simp [State.finishSc]
@[simp] theorem State.finishSc_mem (s : State) (r : Reg) (ok : Bool) : (s.finishSc r ok).mem = s.mem := by
  simp [State.finishSc]
@[simp] theorem State.finishSc_waiting (s : State) (r : Reg) (ok : Bool) : (s.finishSc r ok).waiting = s.waiting := by
  simp [State.finishSc]
@[simp] theorem State.finishSc_cfg (s : State) (r : Reg) (ok : Bool) : (s.finishSc r ok).cfg = s.cfg := by
  simp [State.finishSc]
@[simp] theorem State.finishSc_env (s : State) (r : Reg) (ok : Bool) : (s.finishSc r ok).env = s.env := by
  simp [State.finishSc]
@[simp] theorem State.finishSc_draws (s : State) (r : Reg) (ok : Bool) : (s.finishSc r ok).draws = s.draws := by
  simp [State.finishSc]

@[simp] theorem State.setHiLo_gpr (s : State) (v : DWord) : (s.setHiLo v).gpr = s.gpr := rfl
@[simp] theorem State.setHiLo_pc (s : State) (v : DWord) : (s.setHiLo v).pc = s.pc := rfl
@[simp] theorem State.setHiLo_npc (s : State) (v : DWord) : (s.setHiLo v).npc = s.npc := rfl
@[simp] theorem State.setHiLo_inDelaySlot (s : State) (v : DWord) : (s.setHiLo v).inDelaySlot = s.inDelaySlot := rfl
@[simp] theorem State.setHiLo_loadPending (s : State) (v : DWord) : (s.setHiLo v).loadPending = s.loadPending := rfl
@[simp] theorem State.setHiLo_hi (s : State) (v : DWord) : (s.setHiLo v).hi = v.extractLsb' 32 32 := rfl
@[simp] theorem State.setHiLo_lo (s : State) (v : DWord) : (s.setHiLo v).lo = v.extractLsb' 0 32 := rfl
@[simp] theorem State.setHiLo_pairFresh (s : State) (v : DWord) : (s.setHiLo v).pairFresh = s.pairFresh := rfl
@[simp] theorem State.setHiLo_hist1 (s : State) (v : DWord) : (s.setHiLo v).hist1 = s.hist1 := rfl
@[simp] theorem State.setHiLo_hist2 (s : State) (v : DWord) : (s.setHiLo v).hist2 = s.hist2 := rfl
@[simp] theorem State.setHiLo_llBit (s : State) (v : DWord) : (s.setHiLo v).llBit = s.llBit := rfl
@[simp] theorem State.setHiLo_llAddr (s : State) (v : DWord) : (s.setHiLo v).llAddr = s.llAddr := rfl
@[simp] theorem State.setHiLo_llVa (s : State) (v : DWord) : (s.setHiLo v).llVa = s.llVa := rfl
@[simp] theorem State.setHiLo_llAttr (s : State) (v : DWord) : (s.setHiLo v).llAttr = s.llAttr := rfl
@[simp] theorem State.setHiLo_llLo (s : State) (v : DWord) : (s.setHiLo v).llLo = s.llLo := rfl
@[simp] theorem State.setHiLo_llHi (s : State) (v : DWord) : (s.setHiLo v).llHi = s.llHi := rfl
@[simp] theorem State.setHiLo_cp0 (s : State) (v : DWord) : (s.setHiLo v).cp0 = s.cp0 := rfl
@[simp] theorem State.setHiLo_tlb (s : State) (v : DWord) : (s.setHiLo v).tlb = s.tlb := rfl
@[simp] theorem State.setHiLo_fpr (s : State) (v : DWord) : (s.setHiLo v).fpr = s.fpr := rfl
@[simp] theorem State.setHiLo_fprTag (s : State) (v : DWord) : (s.setHiLo v).fprTag = s.fprTag := rfl
@[simp] theorem State.setHiLo_fcsr (s : State) (v : DWord) : (s.setHiLo v).fcsr = s.fcsr := rfl
@[simp] theorem State.setHiLo_mem (s : State) (v : DWord) : (s.setHiLo v).mem = s.mem := rfl
@[simp] theorem State.setHiLo_waiting (s : State) (v : DWord) : (s.setHiLo v).waiting = s.waiting := rfl
@[simp] theorem State.setHiLo_cfg (s : State) (v : DWord) : (s.setHiLo v).cfg = s.cfg := rfl
@[simp] theorem State.setHiLo_env (s : State) (v : DWord) : (s.setHiLo v).env = s.env := rfl
@[simp] theorem State.setHiLo_draws (s : State) (v : DWord) : (s.setHiLo v).draws = s.draws := rfl

@[simp] theorem State.spoilEntry_pc (s : State) (hi lo : Bool) (d : DrawSite) (e : Option HiLoRead) : (s.spoilEntry hi lo d e).pc = s.pc := by
  unfold State.spoilEntry; split
  · split <;> simp
  · rfl
@[simp] theorem State.spoilEntry_npc (s : State) (hi lo : Bool) (d : DrawSite) (e : Option HiLoRead) : (s.spoilEntry hi lo d e).npc = s.npc := by
  unfold State.spoilEntry; split
  · split <;> simp
  · rfl
@[simp] theorem State.spoilEntry_inDelaySlot (s : State) (hi lo : Bool) (d : DrawSite) (e : Option HiLoRead) : (s.spoilEntry hi lo d e).inDelaySlot = s.inDelaySlot := by
  unfold State.spoilEntry; split
  · split <;> simp
  · rfl
@[simp] theorem State.spoilEntry_loadPending (s : State) (hi lo : Bool) (d : DrawSite) (e : Option HiLoRead) : (s.spoilEntry hi lo d e).loadPending = s.loadPending := by
  unfold State.spoilEntry; split
  · split <;> simp
  · rfl
@[simp] theorem State.spoilEntry_hi (s : State) (hi lo : Bool) (d : DrawSite) (e : Option HiLoRead) : (s.spoilEntry hi lo d e).hi = s.hi := by
  unfold State.spoilEntry; split
  · split <;> simp
  · rfl
@[simp] theorem State.spoilEntry_lo (s : State) (hi lo : Bool) (d : DrawSite) (e : Option HiLoRead) : (s.spoilEntry hi lo d e).lo = s.lo := by
  unfold State.spoilEntry; split
  · split <;> simp
  · rfl
@[simp] theorem State.spoilEntry_pairFresh (s : State) (hi lo : Bool) (d : DrawSite) (e : Option HiLoRead) : (s.spoilEntry hi lo d e).pairFresh = s.pairFresh := by
  unfold State.spoilEntry; split
  · split <;> simp
  · rfl
@[simp] theorem State.spoilEntry_hist1 (s : State) (hi lo : Bool) (d : DrawSite) (e : Option HiLoRead) : (s.spoilEntry hi lo d e).hist1 = s.hist1 := by
  unfold State.spoilEntry; split
  · split <;> simp
  · rfl
@[simp] theorem State.spoilEntry_hist2 (s : State) (hi lo : Bool) (d : DrawSite) (e : Option HiLoRead) : (s.spoilEntry hi lo d e).hist2 = s.hist2 := by
  unfold State.spoilEntry; split
  · split <;> simp
  · rfl
@[simp] theorem State.spoilEntry_llBit (s : State) (hi lo : Bool) (d : DrawSite) (e : Option HiLoRead) : (s.spoilEntry hi lo d e).llBit = s.llBit := by
  unfold State.spoilEntry; split
  · split <;> simp
  · rfl
@[simp] theorem State.spoilEntry_llAddr (s : State) (hi lo : Bool) (d : DrawSite) (e : Option HiLoRead) : (s.spoilEntry hi lo d e).llAddr = s.llAddr := by
  unfold State.spoilEntry; split
  · split <;> simp
  · rfl
@[simp] theorem State.spoilEntry_llVa (s : State) (hi lo : Bool) (d : DrawSite) (e : Option HiLoRead) : (s.spoilEntry hi lo d e).llVa = s.llVa := by
  unfold State.spoilEntry; split
  · split <;> simp
  · rfl
@[simp] theorem State.spoilEntry_llAttr (s : State) (hi lo : Bool) (d : DrawSite) (e : Option HiLoRead) : (s.spoilEntry hi lo d e).llAttr = s.llAttr := by
  unfold State.spoilEntry; split
  · split <;> simp
  · rfl
@[simp] theorem State.spoilEntry_llLo (s : State) (hi lo : Bool) (d : DrawSite) (e : Option HiLoRead) : (s.spoilEntry hi lo d e).llLo = s.llLo := by
  unfold State.spoilEntry; split
  · split <;> simp
  · rfl
@[simp] theorem State.spoilEntry_llHi (s : State) (hi lo : Bool) (d : DrawSite) (e : Option HiLoRead) : (s.spoilEntry hi lo d e).llHi = s.llHi := by
  unfold State.spoilEntry; split
  · split <;> simp
  · rfl
@[simp] theorem State.spoilEntry_cp0 (s : State) (hi lo : Bool) (d : DrawSite) (e : Option HiLoRead) : (s.spoilEntry hi lo d e).cp0 = s.cp0 := by
  unfold State.spoilEntry; split
  · split <;> simp
  · rfl
@[simp] theorem State.spoilEntry_tlb (s : State) (hi lo : Bool) (d : DrawSite) (e : Option HiLoRead) : (s.spoilEntry hi lo d e).tlb = s.tlb := by
  unfold State.spoilEntry; split
  · split <;> simp
  · rfl
@[simp] theorem State.spoilEntry_fpr (s : State) (hi lo : Bool) (d : DrawSite) (e : Option HiLoRead) : (s.spoilEntry hi lo d e).fpr = s.fpr := by
  unfold State.spoilEntry; split
  · split <;> simp
  · rfl
@[simp] theorem State.spoilEntry_fprTag (s : State) (hi lo : Bool) (d : DrawSite) (e : Option HiLoRead) : (s.spoilEntry hi lo d e).fprTag = s.fprTag := by
  unfold State.spoilEntry; split
  · split <;> simp
  · rfl
@[simp] theorem State.spoilEntry_fcsr (s : State) (hi lo : Bool) (d : DrawSite) (e : Option HiLoRead) : (s.spoilEntry hi lo d e).fcsr = s.fcsr := by
  unfold State.spoilEntry; split
  · split <;> simp
  · rfl
@[simp] theorem State.spoilEntry_mem (s : State) (hi lo : Bool) (d : DrawSite) (e : Option HiLoRead) : (s.spoilEntry hi lo d e).mem = s.mem := by
  unfold State.spoilEntry; split
  · split <;> simp
  · rfl
@[simp] theorem State.spoilEntry_waiting (s : State) (hi lo : Bool) (d : DrawSite) (e : Option HiLoRead) : (s.spoilEntry hi lo d e).waiting = s.waiting := by
  unfold State.spoilEntry; split
  · split <;> simp
  · rfl
@[simp] theorem State.spoilEntry_cfg (s : State) (hi lo : Bool) (d : DrawSite) (e : Option HiLoRead) : (s.spoilEntry hi lo d e).cfg = s.cfg := by
  unfold State.spoilEntry; split
  · split <;> simp
  · rfl
@[simp] theorem State.spoilEntry_env (s : State) (hi lo : Bool) (d : DrawSite) (e : Option HiLoRead) : (s.spoilEntry hi lo d e).env = s.env := by
  unfold State.spoilEntry; split
  · split <;> simp
  · rfl
@[simp] theorem State.spoilEntry_draws (s : State) (hi lo : Bool) (d : DrawSite) (e : Option HiLoRead) : (s.spoilEntry hi lo d e).draws = s.draws := by
  unfold State.spoilEntry; split
  · split <;> simp
  · rfl

@[simp] theorem State.spoilWindow_pc (s : State) (hi lo : Bool) : (s.spoilWindow hi lo).pc = s.pc := by
  simp [State.spoilWindow]
@[simp] theorem State.spoilWindow_npc (s : State) (hi lo : Bool) : (s.spoilWindow hi lo).npc = s.npc := by
  simp [State.spoilWindow]
@[simp] theorem State.spoilWindow_inDelaySlot (s : State) (hi lo : Bool) : (s.spoilWindow hi lo).inDelaySlot = s.inDelaySlot := by
  simp [State.spoilWindow]
@[simp] theorem State.spoilWindow_loadPending (s : State) (hi lo : Bool) : (s.spoilWindow hi lo).loadPending = s.loadPending := by
  simp [State.spoilWindow]
@[simp] theorem State.spoilWindow_hi (s : State) (hi lo : Bool) : (s.spoilWindow hi lo).hi = s.hi := by
  simp [State.spoilWindow]
@[simp] theorem State.spoilWindow_lo (s : State) (hi lo : Bool) : (s.spoilWindow hi lo).lo = s.lo := by
  simp [State.spoilWindow]
@[simp] theorem State.spoilWindow_pairFresh (s : State) (hi lo : Bool) : (s.spoilWindow hi lo).pairFresh = s.pairFresh := by
  simp [State.spoilWindow]
@[simp] theorem State.spoilWindow_hist1 (s : State) (hi lo : Bool) : (s.spoilWindow hi lo).hist1 =
    s.hist1.filter (fun e => !e.undoneBy hi lo) := rfl
@[simp] theorem State.spoilWindow_hist2 (s : State) (hi lo : Bool) : (s.spoilWindow hi lo).hist2 =
    s.hist2.filter (fun e => !e.undoneBy hi lo) := rfl
@[simp] theorem State.spoilWindow_llBit (s : State) (hi lo : Bool) : (s.spoilWindow hi lo).llBit = s.llBit := by
  simp [State.spoilWindow]
@[simp] theorem State.spoilWindow_llAddr (s : State) (hi lo : Bool) : (s.spoilWindow hi lo).llAddr = s.llAddr := by
  simp [State.spoilWindow]
@[simp] theorem State.spoilWindow_llVa (s : State) (hi lo : Bool) : (s.spoilWindow hi lo).llVa = s.llVa := by
  simp [State.spoilWindow]
@[simp] theorem State.spoilWindow_llAttr (s : State) (hi lo : Bool) : (s.spoilWindow hi lo).llAttr = s.llAttr := by
  simp [State.spoilWindow]
@[simp] theorem State.spoilWindow_llLo (s : State) (hi lo : Bool) : (s.spoilWindow hi lo).llLo = s.llLo := by
  simp [State.spoilWindow]
@[simp] theorem State.spoilWindow_llHi (s : State) (hi lo : Bool) : (s.spoilWindow hi lo).llHi = s.llHi := by
  simp [State.spoilWindow]
@[simp] theorem State.spoilWindow_cp0 (s : State) (hi lo : Bool) : (s.spoilWindow hi lo).cp0 = s.cp0 := by
  simp [State.spoilWindow]
@[simp] theorem State.spoilWindow_tlb (s : State) (hi lo : Bool) : (s.spoilWindow hi lo).tlb = s.tlb := by
  simp [State.spoilWindow]
@[simp] theorem State.spoilWindow_fpr (s : State) (hi lo : Bool) : (s.spoilWindow hi lo).fpr = s.fpr := by
  simp [State.spoilWindow]
@[simp] theorem State.spoilWindow_fprTag (s : State) (hi lo : Bool) : (s.spoilWindow hi lo).fprTag = s.fprTag := by
  simp [State.spoilWindow]
@[simp] theorem State.spoilWindow_fcsr (s : State) (hi lo : Bool) : (s.spoilWindow hi lo).fcsr = s.fcsr := by
  simp [State.spoilWindow]
@[simp] theorem State.spoilWindow_mem (s : State) (hi lo : Bool) : (s.spoilWindow hi lo).mem = s.mem := by
  simp [State.spoilWindow]
@[simp] theorem State.spoilWindow_waiting (s : State) (hi lo : Bool) : (s.spoilWindow hi lo).waiting = s.waiting := by
  simp [State.spoilWindow]
@[simp] theorem State.spoilWindow_cfg (s : State) (hi lo : Bool) : (s.spoilWindow hi lo).cfg = s.cfg := by
  simp [State.spoilWindow]
@[simp] theorem State.spoilWindow_env (s : State) (hi lo : Bool) : (s.spoilWindow hi lo).env = s.env := by
  simp [State.spoilWindow]
@[simp] theorem State.spoilWindow_draws (s : State) (hi lo : Bool) : (s.spoilWindow hi lo).draws = s.draws := by
  simp [State.spoilWindow]

@[simp] theorem State.putFpr_gpr (s : State) (r : Reg) (v : Word) (t : FprTag) : (s.putFpr r v t).gpr = s.gpr := rfl
@[simp] theorem State.putFpr_pc (s : State) (r : Reg) (v : Word) (t : FprTag) : (s.putFpr r v t).pc = s.pc := rfl
@[simp] theorem State.putFpr_npc (s : State) (r : Reg) (v : Word) (t : FprTag) : (s.putFpr r v t).npc = s.npc := rfl
@[simp] theorem State.putFpr_inDelaySlot (s : State) (r : Reg) (v : Word) (t : FprTag) : (s.putFpr r v t).inDelaySlot = s.inDelaySlot := rfl
@[simp] theorem State.putFpr_loadPending (s : State) (r : Reg) (v : Word) (t : FprTag) : (s.putFpr r v t).loadPending = s.loadPending := rfl
@[simp] theorem State.putFpr_hi (s : State) (r : Reg) (v : Word) (t : FprTag) : (s.putFpr r v t).hi = s.hi := rfl
@[simp] theorem State.putFpr_lo (s : State) (r : Reg) (v : Word) (t : FprTag) : (s.putFpr r v t).lo = s.lo := rfl
@[simp] theorem State.putFpr_pairFresh (s : State) (r : Reg) (v : Word) (t : FprTag) : (s.putFpr r v t).pairFresh = s.pairFresh := rfl
@[simp] theorem State.putFpr_hist1 (s : State) (r : Reg) (v : Word) (t : FprTag) : (s.putFpr r v t).hist1 = s.hist1 := rfl
@[simp] theorem State.putFpr_hist2 (s : State) (r : Reg) (v : Word) (t : FprTag) : (s.putFpr r v t).hist2 = s.hist2 := rfl
@[simp] theorem State.putFpr_llBit (s : State) (r : Reg) (v : Word) (t : FprTag) : (s.putFpr r v t).llBit = s.llBit := rfl
@[simp] theorem State.putFpr_llAddr (s : State) (r : Reg) (v : Word) (t : FprTag) : (s.putFpr r v t).llAddr = s.llAddr := rfl
@[simp] theorem State.putFpr_llVa (s : State) (r : Reg) (v : Word) (t : FprTag) : (s.putFpr r v t).llVa = s.llVa := rfl
@[simp] theorem State.putFpr_llAttr (s : State) (r : Reg) (v : Word) (t : FprTag) : (s.putFpr r v t).llAttr = s.llAttr := rfl
@[simp] theorem State.putFpr_llLo (s : State) (r : Reg) (v : Word) (t : FprTag) : (s.putFpr r v t).llLo = s.llLo := rfl
@[simp] theorem State.putFpr_llHi (s : State) (r : Reg) (v : Word) (t : FprTag) : (s.putFpr r v t).llHi = s.llHi := rfl
@[simp] theorem State.putFpr_cp0 (s : State) (r : Reg) (v : Word) (t : FprTag) : (s.putFpr r v t).cp0 = s.cp0 := rfl
@[simp] theorem State.putFpr_tlb (s : State) (r : Reg) (v : Word) (t : FprTag) : (s.putFpr r v t).tlb = s.tlb := rfl
@[simp] theorem State.putFpr_fpr (s : State) (r : Reg) (v : Word) (t : FprTag) : (s.putFpr r v t).fpr = s.fpr.set r.toNat v := rfl
@[simp] theorem State.putFpr_fprTag (s : State) (r : Reg) (v : Word) (t : FprTag) : (s.putFpr r v t).fprTag = s.fprTag.set r.toNat t := rfl
@[simp] theorem State.putFpr_fcsr (s : State) (r : Reg) (v : Word) (t : FprTag) : (s.putFpr r v t).fcsr = s.fcsr := rfl
@[simp] theorem State.putFpr_mem (s : State) (r : Reg) (v : Word) (t : FprTag) : (s.putFpr r v t).mem = s.mem := rfl
@[simp] theorem State.putFpr_waiting (s : State) (r : Reg) (v : Word) (t : FprTag) : (s.putFpr r v t).waiting = s.waiting := rfl
@[simp] theorem State.putFpr_cfg (s : State) (r : Reg) (v : Word) (t : FprTag) : (s.putFpr r v t).cfg = s.cfg := rfl
@[simp] theorem State.putFpr_env (s : State) (r : Reg) (v : Word) (t : FprTag) : (s.putFpr r v t).env = s.env := rfl
@[simp] theorem State.putFpr_draws (s : State) (r : Reg) (v : Word) (t : FprTag) : (s.putFpr r v t).draws = s.draws := rfl

@[simp] theorem State.storeFpr32_gpr (s : State) (r : Reg) (v : Word) (t : FprTag) : (s.storeFpr32 r v t).gpr = s.gpr := rfl
@[simp] theorem State.storeFpr32_pc (s : State) (r : Reg) (v : Word) (t : FprTag) : (s.storeFpr32 r v t).pc = s.pc := rfl
@[simp] theorem State.storeFpr32_npc (s : State) (r : Reg) (v : Word) (t : FprTag) : (s.storeFpr32 r v t).npc = s.npc := rfl
@[simp] theorem State.storeFpr32_inDelaySlot (s : State) (r : Reg) (v : Word) (t : FprTag) : (s.storeFpr32 r v t).inDelaySlot = s.inDelaySlot := rfl
@[simp] theorem State.storeFpr32_loadPending (s : State) (r : Reg) (v : Word) (t : FprTag) : (s.storeFpr32 r v t).loadPending = s.loadPending := rfl
@[simp] theorem State.storeFpr32_hi (s : State) (r : Reg) (v : Word) (t : FprTag) : (s.storeFpr32 r v t).hi = s.hi := rfl
@[simp] theorem State.storeFpr32_lo (s : State) (r : Reg) (v : Word) (t : FprTag) : (s.storeFpr32 r v t).lo = s.lo := rfl
@[simp] theorem State.storeFpr32_pairFresh (s : State) (r : Reg) (v : Word) (t : FprTag) : (s.storeFpr32 r v t).pairFresh = s.pairFresh := rfl
@[simp] theorem State.storeFpr32_hist1 (s : State) (r : Reg) (v : Word) (t : FprTag) : (s.storeFpr32 r v t).hist1 = s.hist1 := rfl
@[simp] theorem State.storeFpr32_hist2 (s : State) (r : Reg) (v : Word) (t : FprTag) : (s.storeFpr32 r v t).hist2 = s.hist2 := rfl
@[simp] theorem State.storeFpr32_llBit (s : State) (r : Reg) (v : Word) (t : FprTag) : (s.storeFpr32 r v t).llBit = s.llBit := rfl
@[simp] theorem State.storeFpr32_llAddr (s : State) (r : Reg) (v : Word) (t : FprTag) : (s.storeFpr32 r v t).llAddr = s.llAddr := rfl
@[simp] theorem State.storeFpr32_llVa (s : State) (r : Reg) (v : Word) (t : FprTag) : (s.storeFpr32 r v t).llVa = s.llVa := rfl
@[simp] theorem State.storeFpr32_llAttr (s : State) (r : Reg) (v : Word) (t : FprTag) : (s.storeFpr32 r v t).llAttr = s.llAttr := rfl
@[simp] theorem State.storeFpr32_llLo (s : State) (r : Reg) (v : Word) (t : FprTag) : (s.storeFpr32 r v t).llLo = s.llLo := rfl
@[simp] theorem State.storeFpr32_llHi (s : State) (r : Reg) (v : Word) (t : FprTag) : (s.storeFpr32 r v t).llHi = s.llHi := rfl
@[simp] theorem State.storeFpr32_cp0 (s : State) (r : Reg) (v : Word) (t : FprTag) : (s.storeFpr32 r v t).cp0 = s.cp0 := rfl
@[simp] theorem State.storeFpr32_tlb (s : State) (r : Reg) (v : Word) (t : FprTag) : (s.storeFpr32 r v t).tlb = s.tlb := rfl
@[simp] theorem State.storeFpr32_fcsr (s : State) (r : Reg) (v : Word) (t : FprTag) : (s.storeFpr32 r v t).fcsr = s.fcsr := rfl
@[simp] theorem State.storeFpr32_mem (s : State) (r : Reg) (v : Word) (t : FprTag) : (s.storeFpr32 r v t).mem = s.mem := rfl
@[simp] theorem State.storeFpr32_waiting (s : State) (r : Reg) (v : Word) (t : FprTag) : (s.storeFpr32 r v t).waiting = s.waiting := rfl
@[simp] theorem State.storeFpr32_cfg (s : State) (r : Reg) (v : Word) (t : FprTag) : (s.storeFpr32 r v t).cfg = s.cfg := rfl
@[simp] theorem State.storeFpr32_env (s : State) (r : Reg) (v : Word) (t : FprTag) : (s.storeFpr32 r v t).env = s.env := rfl
@[simp] theorem State.storeFpr32_draws (s : State) (r : Reg) (v : Word) (t : FprTag) : (s.storeFpr32 r v t).draws = s.draws := rfl

@[simp] theorem State.storeFpr64_gpr (s : State) (r : Reg) (v : DWord) (t : FprTag) : (s.storeFpr64 r v t).gpr = s.gpr := rfl
@[simp] theorem State.storeFpr64_pc (s : State) (r : Reg) (v : DWord) (t : FprTag) : (s.storeFpr64 r v t).pc = s.pc := rfl
@[simp] theorem State.storeFpr64_npc (s : State) (r : Reg) (v : DWord) (t : FprTag) : (s.storeFpr64 r v t).npc = s.npc := rfl
@[simp] theorem State.storeFpr64_inDelaySlot (s : State) (r : Reg) (v : DWord) (t : FprTag) : (s.storeFpr64 r v t).inDelaySlot = s.inDelaySlot := rfl
@[simp] theorem State.storeFpr64_loadPending (s : State) (r : Reg) (v : DWord) (t : FprTag) : (s.storeFpr64 r v t).loadPending = s.loadPending := rfl
@[simp] theorem State.storeFpr64_hi (s : State) (r : Reg) (v : DWord) (t : FprTag) : (s.storeFpr64 r v t).hi = s.hi := rfl
@[simp] theorem State.storeFpr64_lo (s : State) (r : Reg) (v : DWord) (t : FprTag) : (s.storeFpr64 r v t).lo = s.lo := rfl
@[simp] theorem State.storeFpr64_pairFresh (s : State) (r : Reg) (v : DWord) (t : FprTag) : (s.storeFpr64 r v t).pairFresh = s.pairFresh := rfl
@[simp] theorem State.storeFpr64_hist1 (s : State) (r : Reg) (v : DWord) (t : FprTag) : (s.storeFpr64 r v t).hist1 = s.hist1 := rfl
@[simp] theorem State.storeFpr64_hist2 (s : State) (r : Reg) (v : DWord) (t : FprTag) : (s.storeFpr64 r v t).hist2 = s.hist2 := rfl
@[simp] theorem State.storeFpr64_llBit (s : State) (r : Reg) (v : DWord) (t : FprTag) : (s.storeFpr64 r v t).llBit = s.llBit := rfl
@[simp] theorem State.storeFpr64_llAddr (s : State) (r : Reg) (v : DWord) (t : FprTag) : (s.storeFpr64 r v t).llAddr = s.llAddr := rfl
@[simp] theorem State.storeFpr64_llVa (s : State) (r : Reg) (v : DWord) (t : FprTag) : (s.storeFpr64 r v t).llVa = s.llVa := rfl
@[simp] theorem State.storeFpr64_llAttr (s : State) (r : Reg) (v : DWord) (t : FprTag) : (s.storeFpr64 r v t).llAttr = s.llAttr := rfl
@[simp] theorem State.storeFpr64_llLo (s : State) (r : Reg) (v : DWord) (t : FprTag) : (s.storeFpr64 r v t).llLo = s.llLo := rfl
@[simp] theorem State.storeFpr64_llHi (s : State) (r : Reg) (v : DWord) (t : FprTag) : (s.storeFpr64 r v t).llHi = s.llHi := rfl
@[simp] theorem State.storeFpr64_cp0 (s : State) (r : Reg) (v : DWord) (t : FprTag) : (s.storeFpr64 r v t).cp0 = s.cp0 := rfl
@[simp] theorem State.storeFpr64_tlb (s : State) (r : Reg) (v : DWord) (t : FprTag) : (s.storeFpr64 r v t).tlb = s.tlb := rfl
@[simp] theorem State.storeFpr64_fcsr (s : State) (r : Reg) (v : DWord) (t : FprTag) : (s.storeFpr64 r v t).fcsr = s.fcsr := rfl
@[simp] theorem State.storeFpr64_mem (s : State) (r : Reg) (v : DWord) (t : FprTag) : (s.storeFpr64 r v t).mem = s.mem := rfl
@[simp] theorem State.storeFpr64_waiting (s : State) (r : Reg) (v : DWord) (t : FprTag) : (s.storeFpr64 r v t).waiting = s.waiting := rfl
@[simp] theorem State.storeFpr64_cfg (s : State) (r : Reg) (v : DWord) (t : FprTag) : (s.storeFpr64 r v t).cfg = s.cfg := rfl
@[simp] theorem State.storeFpr64_env (s : State) (r : Reg) (v : DWord) (t : FprTag) : (s.storeFpr64 r v t).env = s.env := rfl
@[simp] theorem State.storeFpr64_draws (s : State) (r : Reg) (v : DWord) (t : FprTag) : (s.storeFpr64 r v t).draws = s.draws := rfl

@[simp] theorem State.storeFprAs_gpr (s : State) (r : Reg) (m : Fmt) (v : BitVec 64) (t : FprTag) : (s.storeFprAs r m v t).gpr = s.gpr := by
  unfold State.storeFprAs; split <;> simp
@[simp] theorem State.storeFprAs_pc (s : State) (r : Reg) (m : Fmt) (v : BitVec 64) (t : FprTag) : (s.storeFprAs r m v t).pc = s.pc := by
  unfold State.storeFprAs; split <;> simp
@[simp] theorem State.storeFprAs_npc (s : State) (r : Reg) (m : Fmt) (v : BitVec 64) (t : FprTag) : (s.storeFprAs r m v t).npc = s.npc := by
  unfold State.storeFprAs; split <;> simp
@[simp] theorem State.storeFprAs_inDelaySlot (s : State) (r : Reg) (m : Fmt) (v : BitVec 64) (t : FprTag) : (s.storeFprAs r m v t).inDelaySlot = s.inDelaySlot := by
  unfold State.storeFprAs; split <;> simp
@[simp] theorem State.storeFprAs_loadPending (s : State) (r : Reg) (m : Fmt) (v : BitVec 64) (t : FprTag) : (s.storeFprAs r m v t).loadPending = s.loadPending := by
  unfold State.storeFprAs; split <;> simp
@[simp] theorem State.storeFprAs_hi (s : State) (r : Reg) (m : Fmt) (v : BitVec 64) (t : FprTag) : (s.storeFprAs r m v t).hi = s.hi := by
  unfold State.storeFprAs; split <;> simp
@[simp] theorem State.storeFprAs_lo (s : State) (r : Reg) (m : Fmt) (v : BitVec 64) (t : FprTag) : (s.storeFprAs r m v t).lo = s.lo := by
  unfold State.storeFprAs; split <;> simp
@[simp] theorem State.storeFprAs_pairFresh (s : State) (r : Reg) (m : Fmt) (v : BitVec 64) (t : FprTag) : (s.storeFprAs r m v t).pairFresh = s.pairFresh := by
  unfold State.storeFprAs; split <;> simp
@[simp] theorem State.storeFprAs_hist1 (s : State) (r : Reg) (m : Fmt) (v : BitVec 64) (t : FprTag) : (s.storeFprAs r m v t).hist1 = s.hist1 := by
  unfold State.storeFprAs; split <;> simp
@[simp] theorem State.storeFprAs_hist2 (s : State) (r : Reg) (m : Fmt) (v : BitVec 64) (t : FprTag) : (s.storeFprAs r m v t).hist2 = s.hist2 := by
  unfold State.storeFprAs; split <;> simp
@[simp] theorem State.storeFprAs_llBit (s : State) (r : Reg) (m : Fmt) (v : BitVec 64) (t : FprTag) : (s.storeFprAs r m v t).llBit = s.llBit := by
  unfold State.storeFprAs; split <;> simp
@[simp] theorem State.storeFprAs_llAddr (s : State) (r : Reg) (m : Fmt) (v : BitVec 64) (t : FprTag) : (s.storeFprAs r m v t).llAddr = s.llAddr := by
  unfold State.storeFprAs; split <;> simp
@[simp] theorem State.storeFprAs_llVa (s : State) (r : Reg) (m : Fmt) (v : BitVec 64) (t : FprTag) : (s.storeFprAs r m v t).llVa = s.llVa := by
  unfold State.storeFprAs; split <;> simp
@[simp] theorem State.storeFprAs_llAttr (s : State) (r : Reg) (m : Fmt) (v : BitVec 64) (t : FprTag) : (s.storeFprAs r m v t).llAttr = s.llAttr := by
  unfold State.storeFprAs; split <;> simp
@[simp] theorem State.storeFprAs_llLo (s : State) (r : Reg) (m : Fmt) (v : BitVec 64) (t : FprTag) : (s.storeFprAs r m v t).llLo = s.llLo := by
  unfold State.storeFprAs; split <;> simp
@[simp] theorem State.storeFprAs_llHi (s : State) (r : Reg) (m : Fmt) (v : BitVec 64) (t : FprTag) : (s.storeFprAs r m v t).llHi = s.llHi := by
  unfold State.storeFprAs; split <;> simp
@[simp] theorem State.storeFprAs_cp0 (s : State) (r : Reg) (m : Fmt) (v : BitVec 64) (t : FprTag) : (s.storeFprAs r m v t).cp0 = s.cp0 := by
  unfold State.storeFprAs; split <;> simp
@[simp] theorem State.storeFprAs_tlb (s : State) (r : Reg) (m : Fmt) (v : BitVec 64) (t : FprTag) : (s.storeFprAs r m v t).tlb = s.tlb := by
  unfold State.storeFprAs; split <;> simp
@[simp] theorem State.storeFprAs_fcsr (s : State) (r : Reg) (m : Fmt) (v : BitVec 64) (t : FprTag) : (s.storeFprAs r m v t).fcsr = s.fcsr := by
  unfold State.storeFprAs; split <;> simp
@[simp] theorem State.storeFprAs_mem (s : State) (r : Reg) (m : Fmt) (v : BitVec 64) (t : FprTag) : (s.storeFprAs r m v t).mem = s.mem := by
  unfold State.storeFprAs; split <;> simp
@[simp] theorem State.storeFprAs_waiting (s : State) (r : Reg) (m : Fmt) (v : BitVec 64) (t : FprTag) : (s.storeFprAs r m v t).waiting = s.waiting := by
  unfold State.storeFprAs; split <;> simp
@[simp] theorem State.storeFprAs_cfg (s : State) (r : Reg) (m : Fmt) (v : BitVec 64) (t : FprTag) : (s.storeFprAs r m v t).cfg = s.cfg := by
  unfold State.storeFprAs; split <;> simp
@[simp] theorem State.storeFprAs_env (s : State) (r : Reg) (m : Fmt) (v : BitVec 64) (t : FprTag) : (s.storeFprAs r m v t).env = s.env := by
  unfold State.storeFprAs; split <;> simp
@[simp] theorem State.storeFprAs_draws (s : State) (r : Reg) (m : Fmt) (v : BitVec 64) (t : FprTag) : (s.storeFprAs r m v t).draws = s.draws := by
  unfold State.storeFprAs; split <;> simp

@[simp] theorem State.storeFpr_gpr (s : State) (r : Reg) (m : Fmt) (v : BitVec 64) : (s.storeFpr r m v).gpr = s.gpr := by
  simp [State.storeFpr]
@[simp] theorem State.storeFpr_pc (s : State) (r : Reg) (m : Fmt) (v : BitVec 64) : (s.storeFpr r m v).pc = s.pc := by
  simp [State.storeFpr]
@[simp] theorem State.storeFpr_npc (s : State) (r : Reg) (m : Fmt) (v : BitVec 64) : (s.storeFpr r m v).npc = s.npc := by
  simp [State.storeFpr]
@[simp] theorem State.storeFpr_inDelaySlot (s : State) (r : Reg) (m : Fmt) (v : BitVec 64) : (s.storeFpr r m v).inDelaySlot = s.inDelaySlot := by
  simp [State.storeFpr]
@[simp] theorem State.storeFpr_loadPending (s : State) (r : Reg) (m : Fmt) (v : BitVec 64) : (s.storeFpr r m v).loadPending = s.loadPending := by
  simp [State.storeFpr]
@[simp] theorem State.storeFpr_hi (s : State) (r : Reg) (m : Fmt) (v : BitVec 64) : (s.storeFpr r m v).hi = s.hi := by
  simp [State.storeFpr]
@[simp] theorem State.storeFpr_lo (s : State) (r : Reg) (m : Fmt) (v : BitVec 64) : (s.storeFpr r m v).lo = s.lo := by
  simp [State.storeFpr]
@[simp] theorem State.storeFpr_pairFresh (s : State) (r : Reg) (m : Fmt) (v : BitVec 64) : (s.storeFpr r m v).pairFresh = s.pairFresh := by
  simp [State.storeFpr]
@[simp] theorem State.storeFpr_hist1 (s : State) (r : Reg) (m : Fmt) (v : BitVec 64) : (s.storeFpr r m v).hist1 = s.hist1 := by
  simp [State.storeFpr]
@[simp] theorem State.storeFpr_hist2 (s : State) (r : Reg) (m : Fmt) (v : BitVec 64) : (s.storeFpr r m v).hist2 = s.hist2 := by
  simp [State.storeFpr]
@[simp] theorem State.storeFpr_llBit (s : State) (r : Reg) (m : Fmt) (v : BitVec 64) : (s.storeFpr r m v).llBit = s.llBit := by
  simp [State.storeFpr]
@[simp] theorem State.storeFpr_llAddr (s : State) (r : Reg) (m : Fmt) (v : BitVec 64) : (s.storeFpr r m v).llAddr = s.llAddr := by
  simp [State.storeFpr]
@[simp] theorem State.storeFpr_llVa (s : State) (r : Reg) (m : Fmt) (v : BitVec 64) : (s.storeFpr r m v).llVa = s.llVa := by
  simp [State.storeFpr]
@[simp] theorem State.storeFpr_llAttr (s : State) (r : Reg) (m : Fmt) (v : BitVec 64) : (s.storeFpr r m v).llAttr = s.llAttr := by
  simp [State.storeFpr]
@[simp] theorem State.storeFpr_llLo (s : State) (r : Reg) (m : Fmt) (v : BitVec 64) : (s.storeFpr r m v).llLo = s.llLo := by
  simp [State.storeFpr]
@[simp] theorem State.storeFpr_llHi (s : State) (r : Reg) (m : Fmt) (v : BitVec 64) : (s.storeFpr r m v).llHi = s.llHi := by
  simp [State.storeFpr]
@[simp] theorem State.storeFpr_cp0 (s : State) (r : Reg) (m : Fmt) (v : BitVec 64) : (s.storeFpr r m v).cp0 = s.cp0 := by
  simp [State.storeFpr]
@[simp] theorem State.storeFpr_tlb (s : State) (r : Reg) (m : Fmt) (v : BitVec 64) : (s.storeFpr r m v).tlb = s.tlb := by
  simp [State.storeFpr]
@[simp] theorem State.storeFpr_fcsr (s : State) (r : Reg) (m : Fmt) (v : BitVec 64) : (s.storeFpr r m v).fcsr = s.fcsr := by
  simp [State.storeFpr]
@[simp] theorem State.storeFpr_mem (s : State) (r : Reg) (m : Fmt) (v : BitVec 64) : (s.storeFpr r m v).mem = s.mem := by
  simp [State.storeFpr]
@[simp] theorem State.storeFpr_waiting (s : State) (r : Reg) (m : Fmt) (v : BitVec 64) : (s.storeFpr r m v).waiting = s.waiting := by
  simp [State.storeFpr]
@[simp] theorem State.storeFpr_cfg (s : State) (r : Reg) (m : Fmt) (v : BitVec 64) : (s.storeFpr r m v).cfg = s.cfg := by
  simp [State.storeFpr]
@[simp] theorem State.storeFpr_env (s : State) (r : Reg) (m : Fmt) (v : BitVec 64) : (s.storeFpr r m v).env = s.env := by
  simp [State.storeFpr]
@[simp] theorem State.storeFpr_draws (s : State) (r : Reg) (m : Fmt) (v : BitVec 64) : (s.storeFpr r m v).draws = s.draws := by
  simp [State.storeFpr]

@[simp] theorem State.fpSpoil_gpr (s : State) (d : DrawSite) (r : Reg) (m : Fmt) : (s.fpSpoil d r m).gpr = s.gpr := by
  unfold State.fpSpoil; split <;> simp
@[simp] theorem State.fpSpoil_pc (s : State) (d : DrawSite) (r : Reg) (m : Fmt) : (s.fpSpoil d r m).pc = s.pc := by
  unfold State.fpSpoil; split <;> simp
@[simp] theorem State.fpSpoil_npc (s : State) (d : DrawSite) (r : Reg) (m : Fmt) : (s.fpSpoil d r m).npc = s.npc := by
  unfold State.fpSpoil; split <;> simp
@[simp] theorem State.fpSpoil_inDelaySlot (s : State) (d : DrawSite) (r : Reg) (m : Fmt) : (s.fpSpoil d r m).inDelaySlot = s.inDelaySlot := by
  unfold State.fpSpoil; split <;> simp
@[simp] theorem State.fpSpoil_loadPending (s : State) (d : DrawSite) (r : Reg) (m : Fmt) : (s.fpSpoil d r m).loadPending = s.loadPending := by
  unfold State.fpSpoil; split <;> simp
@[simp] theorem State.fpSpoil_hi (s : State) (d : DrawSite) (r : Reg) (m : Fmt) : (s.fpSpoil d r m).hi = s.hi := by
  unfold State.fpSpoil; split <;> simp
@[simp] theorem State.fpSpoil_lo (s : State) (d : DrawSite) (r : Reg) (m : Fmt) : (s.fpSpoil d r m).lo = s.lo := by
  unfold State.fpSpoil; split <;> simp
@[simp] theorem State.fpSpoil_pairFresh (s : State) (d : DrawSite) (r : Reg) (m : Fmt) : (s.fpSpoil d r m).pairFresh = s.pairFresh := by
  unfold State.fpSpoil; split <;> simp
@[simp] theorem State.fpSpoil_hist1 (s : State) (d : DrawSite) (r : Reg) (m : Fmt) : (s.fpSpoil d r m).hist1 = s.hist1 := by
  unfold State.fpSpoil; split <;> simp
@[simp] theorem State.fpSpoil_hist2 (s : State) (d : DrawSite) (r : Reg) (m : Fmt) : (s.fpSpoil d r m).hist2 = s.hist2 := by
  unfold State.fpSpoil; split <;> simp
@[simp] theorem State.fpSpoil_llBit (s : State) (d : DrawSite) (r : Reg) (m : Fmt) : (s.fpSpoil d r m).llBit = s.llBit := by
  unfold State.fpSpoil; split <;> simp
@[simp] theorem State.fpSpoil_llAddr (s : State) (d : DrawSite) (r : Reg) (m : Fmt) : (s.fpSpoil d r m).llAddr = s.llAddr := by
  unfold State.fpSpoil; split <;> simp
@[simp] theorem State.fpSpoil_llVa (s : State) (d : DrawSite) (r : Reg) (m : Fmt) : (s.fpSpoil d r m).llVa = s.llVa := by
  unfold State.fpSpoil; split <;> simp
@[simp] theorem State.fpSpoil_llAttr (s : State) (d : DrawSite) (r : Reg) (m : Fmt) : (s.fpSpoil d r m).llAttr = s.llAttr := by
  unfold State.fpSpoil; split <;> simp
@[simp] theorem State.fpSpoil_llLo (s : State) (d : DrawSite) (r : Reg) (m : Fmt) : (s.fpSpoil d r m).llLo = s.llLo := by
  unfold State.fpSpoil; split <;> simp
@[simp] theorem State.fpSpoil_llHi (s : State) (d : DrawSite) (r : Reg) (m : Fmt) : (s.fpSpoil d r m).llHi = s.llHi := by
  unfold State.fpSpoil; split <;> simp
@[simp] theorem State.fpSpoil_cp0 (s : State) (d : DrawSite) (r : Reg) (m : Fmt) : (s.fpSpoil d r m).cp0 = s.cp0 := by
  unfold State.fpSpoil; split <;> simp
@[simp] theorem State.fpSpoil_tlb (s : State) (d : DrawSite) (r : Reg) (m : Fmt) : (s.fpSpoil d r m).tlb = s.tlb := by
  unfold State.fpSpoil; split <;> simp
@[simp] theorem State.fpSpoil_fcsr (s : State) (d : DrawSite) (r : Reg) (m : Fmt) : (s.fpSpoil d r m).fcsr = s.fcsr := by
  unfold State.fpSpoil; split <;> simp
@[simp] theorem State.fpSpoil_mem (s : State) (d : DrawSite) (r : Reg) (m : Fmt) : (s.fpSpoil d r m).mem = s.mem := by
  unfold State.fpSpoil; split <;> simp
@[simp] theorem State.fpSpoil_waiting (s : State) (d : DrawSite) (r : Reg) (m : Fmt) : (s.fpSpoil d r m).waiting = s.waiting := by
  unfold State.fpSpoil; split <;> simp
@[simp] theorem State.fpSpoil_cfg (s : State) (d : DrawSite) (r : Reg) (m : Fmt) : (s.fpSpoil d r m).cfg = s.cfg := by
  unfold State.fpSpoil; split <;> simp
@[simp] theorem State.fpSpoil_env (s : State) (d : DrawSite) (r : Reg) (m : Fmt) : (s.fpSpoil d r m).env = s.env := by
  unfold State.fpSpoil; split <;> simp
@[simp] theorem State.fpSpoil_draws (s : State) (d : DrawSite) (r : Reg) (m : Fmt) : (s.fpSpoil d r m).draws = s.draws := by
  unfold State.fpSpoil; split <;> simp

@[simp] theorem State.setFpCc_gpr (s : State) (c : Cc) (b : Bool) : (s.setFpCc c b).gpr = s.gpr := rfl
@[simp] theorem State.setFpCc_pc (s : State) (c : Cc) (b : Bool) : (s.setFpCc c b).pc = s.pc := rfl
@[simp] theorem State.setFpCc_npc (s : State) (c : Cc) (b : Bool) : (s.setFpCc c b).npc = s.npc := rfl
@[simp] theorem State.setFpCc_inDelaySlot (s : State) (c : Cc) (b : Bool) : (s.setFpCc c b).inDelaySlot = s.inDelaySlot := rfl
@[simp] theorem State.setFpCc_loadPending (s : State) (c : Cc) (b : Bool) : (s.setFpCc c b).loadPending = s.loadPending := rfl
@[simp] theorem State.setFpCc_hi (s : State) (c : Cc) (b : Bool) : (s.setFpCc c b).hi = s.hi := rfl
@[simp] theorem State.setFpCc_lo (s : State) (c : Cc) (b : Bool) : (s.setFpCc c b).lo = s.lo := rfl
@[simp] theorem State.setFpCc_pairFresh (s : State) (c : Cc) (b : Bool) : (s.setFpCc c b).pairFresh = s.pairFresh := rfl
@[simp] theorem State.setFpCc_hist1 (s : State) (c : Cc) (b : Bool) : (s.setFpCc c b).hist1 = s.hist1 := rfl
@[simp] theorem State.setFpCc_hist2 (s : State) (c : Cc) (b : Bool) : (s.setFpCc c b).hist2 = s.hist2 := rfl
@[simp] theorem State.setFpCc_llBit (s : State) (c : Cc) (b : Bool) : (s.setFpCc c b).llBit = s.llBit := rfl
@[simp] theorem State.setFpCc_llAddr (s : State) (c : Cc) (b : Bool) : (s.setFpCc c b).llAddr = s.llAddr := rfl
@[simp] theorem State.setFpCc_llVa (s : State) (c : Cc) (b : Bool) : (s.setFpCc c b).llVa = s.llVa := rfl
@[simp] theorem State.setFpCc_llAttr (s : State) (c : Cc) (b : Bool) : (s.setFpCc c b).llAttr = s.llAttr := rfl
@[simp] theorem State.setFpCc_llLo (s : State) (c : Cc) (b : Bool) : (s.setFpCc c b).llLo = s.llLo := rfl
@[simp] theorem State.setFpCc_llHi (s : State) (c : Cc) (b : Bool) : (s.setFpCc c b).llHi = s.llHi := rfl
@[simp] theorem State.setFpCc_cp0 (s : State) (c : Cc) (b : Bool) : (s.setFpCc c b).cp0 = s.cp0 := rfl
@[simp] theorem State.setFpCc_tlb (s : State) (c : Cc) (b : Bool) : (s.setFpCc c b).tlb = s.tlb := rfl
@[simp] theorem State.setFpCc_fpr (s : State) (c : Cc) (b : Bool) : (s.setFpCc c b).fpr = s.fpr := rfl
@[simp] theorem State.setFpCc_fprTag (s : State) (c : Cc) (b : Bool) : (s.setFpCc c b).fprTag = s.fprTag := rfl
@[simp] theorem State.setFpCc_fcsr (s : State) (c : Cc) (b : Bool) : (s.setFpCc c b).fcsr = putBit s.fcsr (ccBit c) b := rfl
@[simp] theorem State.setFpCc_mem (s : State) (c : Cc) (b : Bool) : (s.setFpCc c b).mem = s.mem := rfl
@[simp] theorem State.setFpCc_waiting (s : State) (c : Cc) (b : Bool) : (s.setFpCc c b).waiting = s.waiting := rfl
@[simp] theorem State.setFpCc_cfg (s : State) (c : Cc) (b : Bool) : (s.setFpCc c b).cfg = s.cfg := rfl
@[simp] theorem State.setFpCc_env (s : State) (c : Cc) (b : Bool) : (s.setFpCc c b).env = s.env := rfl
@[simp] theorem State.setFpCc_draws (s : State) (c : Cc) (b : Bool) : (s.setFpCc c b).draws = s.draws := rfl

@[simp] theorem State.tick_gpr (s : State) : (s.tick).gpr = s.gpr := by
  unfold State.tick; split <;> rfl
@[simp] theorem State.tick_pc (s : State) : (s.tick).pc = s.pc := by
  unfold State.tick; split <;> rfl
@[simp] theorem State.tick_npc (s : State) : (s.tick).npc = s.npc := by
  unfold State.tick; split <;> rfl
@[simp] theorem State.tick_inDelaySlot (s : State) : (s.tick).inDelaySlot = s.inDelaySlot := by
  unfold State.tick; split <;> rfl
@[simp] theorem State.tick_loadPending (s : State) : (s.tick).loadPending = s.loadPending := by
  unfold State.tick; split <;> rfl
@[simp] theorem State.tick_hi (s : State) : (s.tick).hi = s.hi := by
  unfold State.tick; split <;> rfl
@[simp] theorem State.tick_lo (s : State) : (s.tick).lo = s.lo := by
  unfold State.tick; split <;> rfl
@[simp] theorem State.tick_pairFresh (s : State) : (s.tick).pairFresh = s.pairFresh := by
  unfold State.tick; split <;> rfl
@[simp] theorem State.tick_hist1 (s : State) : (s.tick).hist1 = s.hist1 := by
  unfold State.tick; split <;> rfl
@[simp] theorem State.tick_hist2 (s : State) : (s.tick).hist2 = s.hist2 := by
  unfold State.tick; split <;> rfl
@[simp] theorem State.tick_llBit (s : State) : (s.tick).llBit = s.llBit := by
  unfold State.tick; split <;> rfl
@[simp] theorem State.tick_llAddr (s : State) : (s.tick).llAddr = s.llAddr := by
  unfold State.tick; split <;> rfl
@[simp] theorem State.tick_llVa (s : State) : (s.tick).llVa = s.llVa := by
  unfold State.tick; split <;> rfl
@[simp] theorem State.tick_llAttr (s : State) : (s.tick).llAttr = s.llAttr := by
  unfold State.tick; split <;> rfl
@[simp] theorem State.tick_llLo (s : State) : (s.tick).llLo = s.llLo := by
  unfold State.tick; split <;> rfl
@[simp] theorem State.tick_llHi (s : State) : (s.tick).llHi = s.llHi := by
  unfold State.tick; split <;> rfl
@[simp] theorem State.tick_tlb (s : State) : (s.tick).tlb = s.tlb := by
  unfold State.tick; split <;> rfl
@[simp] theorem State.tick_fpr (s : State) : (s.tick).fpr = s.fpr := by
  unfold State.tick; split <;> rfl
@[simp] theorem State.tick_fprTag (s : State) : (s.tick).fprTag = s.fprTag := by
  unfold State.tick; split <;> rfl
@[simp] theorem State.tick_fcsr (s : State) : (s.tick).fcsr = s.fcsr := by
  unfold State.tick; split <;> rfl
@[simp] theorem State.tick_mem (s : State) : (s.tick).mem = s.mem := by
  unfold State.tick; split <;> rfl
@[simp] theorem State.tick_waiting (s : State) : (s.tick).waiting = s.waiting := by
  unfold State.tick; split <;> rfl
@[simp] theorem State.tick_cfg (s : State) : (s.tick).cfg = s.cfg := by
  unfold State.tick; split <;> rfl
@[simp] theorem State.tick_env (s : State) : (s.tick).env = s.env := by
  unfold State.tick; split <;> rfl
@[simp] theorem State.tick_draws (s : State) : (s.tick).draws = s.draws := by
  unfold State.tick; split <;> rfl

@[simp] theorem State.sampleLines_gpr (s : State) (q : BitVec 6) : (s.sampleLines q).gpr = s.gpr := rfl
@[simp] theorem State.sampleLines_pc (s : State) (q : BitVec 6) : (s.sampleLines q).pc = s.pc := rfl
@[simp] theorem State.sampleLines_npc (s : State) (q : BitVec 6) : (s.sampleLines q).npc = s.npc := rfl
@[simp] theorem State.sampleLines_inDelaySlot (s : State) (q : BitVec 6) : (s.sampleLines q).inDelaySlot = s.inDelaySlot := rfl
@[simp] theorem State.sampleLines_loadPending (s : State) (q : BitVec 6) : (s.sampleLines q).loadPending = s.loadPending := rfl
@[simp] theorem State.sampleLines_hi (s : State) (q : BitVec 6) : (s.sampleLines q).hi = s.hi := rfl
@[simp] theorem State.sampleLines_lo (s : State) (q : BitVec 6) : (s.sampleLines q).lo = s.lo := rfl
@[simp] theorem State.sampleLines_pairFresh (s : State) (q : BitVec 6) : (s.sampleLines q).pairFresh = s.pairFresh := rfl
@[simp] theorem State.sampleLines_hist1 (s : State) (q : BitVec 6) : (s.sampleLines q).hist1 = s.hist1 := rfl
@[simp] theorem State.sampleLines_hist2 (s : State) (q : BitVec 6) : (s.sampleLines q).hist2 = s.hist2 := rfl
@[simp] theorem State.sampleLines_llBit (s : State) (q : BitVec 6) : (s.sampleLines q).llBit = s.llBit := rfl
@[simp] theorem State.sampleLines_llAddr (s : State) (q : BitVec 6) : (s.sampleLines q).llAddr = s.llAddr := rfl
@[simp] theorem State.sampleLines_llVa (s : State) (q : BitVec 6) : (s.sampleLines q).llVa = s.llVa := rfl
@[simp] theorem State.sampleLines_llAttr (s : State) (q : BitVec 6) : (s.sampleLines q).llAttr = s.llAttr := rfl
@[simp] theorem State.sampleLines_llLo (s : State) (q : BitVec 6) : (s.sampleLines q).llLo = s.llLo := rfl
@[simp] theorem State.sampleLines_llHi (s : State) (q : BitVec 6) : (s.sampleLines q).llHi = s.llHi := rfl
@[simp] theorem State.sampleLines_tlb (s : State) (q : BitVec 6) : (s.sampleLines q).tlb = s.tlb := rfl
@[simp] theorem State.sampleLines_fpr (s : State) (q : BitVec 6) : (s.sampleLines q).fpr = s.fpr := rfl
@[simp] theorem State.sampleLines_fprTag (s : State) (q : BitVec 6) : (s.sampleLines q).fprTag = s.fprTag := rfl
@[simp] theorem State.sampleLines_fcsr (s : State) (q : BitVec 6) : (s.sampleLines q).fcsr = s.fcsr := rfl
@[simp] theorem State.sampleLines_mem (s : State) (q : BitVec 6) : (s.sampleLines q).mem = s.mem := rfl
@[simp] theorem State.sampleLines_waiting (s : State) (q : BitVec 6) : (s.sampleLines q).waiting = s.waiting := rfl
@[simp] theorem State.sampleLines_cfg (s : State) (q : BitVec 6) : (s.sampleLines q).cfg = s.cfg := rfl
@[simp] theorem State.sampleLines_env (s : State) (q : BitVec 6) : (s.sampleLines q).env = s.env := rfl
@[simp] theorem State.sampleLines_draws (s : State) (q : BitVec 6) : (s.sampleLines q).draws = s.draws := rfl

@[simp] theorem State.outsideWrite_gpr (s : State) (c : Host.Cell) : (s.outsideWrite c).gpr = s.gpr := by
  unfold State.outsideWrite; split <;> rfl
@[simp] theorem State.outsideWrite_pc (s : State) (c : Host.Cell) : (s.outsideWrite c).pc = s.pc := by
  unfold State.outsideWrite; split <;> rfl
@[simp] theorem State.outsideWrite_npc (s : State) (c : Host.Cell) : (s.outsideWrite c).npc = s.npc := by
  unfold State.outsideWrite; split <;> rfl
@[simp] theorem State.outsideWrite_inDelaySlot (s : State) (c : Host.Cell) : (s.outsideWrite c).inDelaySlot = s.inDelaySlot := by
  unfold State.outsideWrite; split <;> rfl
@[simp] theorem State.outsideWrite_loadPending (s : State) (c : Host.Cell) : (s.outsideWrite c).loadPending = s.loadPending := by
  unfold State.outsideWrite; split <;> rfl
@[simp] theorem State.outsideWrite_hi (s : State) (c : Host.Cell) : (s.outsideWrite c).hi = s.hi := by
  unfold State.outsideWrite; split <;> rfl
@[simp] theorem State.outsideWrite_lo (s : State) (c : Host.Cell) : (s.outsideWrite c).lo = s.lo := by
  unfold State.outsideWrite; split <;> rfl
@[simp] theorem State.outsideWrite_pairFresh (s : State) (c : Host.Cell) : (s.outsideWrite c).pairFresh = s.pairFresh := by
  unfold State.outsideWrite; split <;> rfl
@[simp] theorem State.outsideWrite_hist1 (s : State) (c : Host.Cell) : (s.outsideWrite c).hist1 = s.hist1 := by
  unfold State.outsideWrite; split <;> rfl
@[simp] theorem State.outsideWrite_hist2 (s : State) (c : Host.Cell) : (s.outsideWrite c).hist2 = s.hist2 := by
  unfold State.outsideWrite; split <;> rfl
@[simp] theorem State.outsideWrite_llAddr (s : State) (c : Host.Cell) : (s.outsideWrite c).llAddr = s.llAddr := by
  unfold State.outsideWrite; split <;> rfl
@[simp] theorem State.outsideWrite_llVa (s : State) (c : Host.Cell) : (s.outsideWrite c).llVa = s.llVa := by
  unfold State.outsideWrite; split <;> rfl
@[simp] theorem State.outsideWrite_llAttr (s : State) (c : Host.Cell) : (s.outsideWrite c).llAttr = s.llAttr := by
  unfold State.outsideWrite; split <;> rfl
@[simp] theorem State.outsideWrite_llLo (s : State) (c : Host.Cell) : (s.outsideWrite c).llLo = s.llLo := by
  unfold State.outsideWrite; split <;> rfl
@[simp] theorem State.outsideWrite_llHi (s : State) (c : Host.Cell) : (s.outsideWrite c).llHi = s.llHi := by
  unfold State.outsideWrite; split <;> rfl
@[simp] theorem State.outsideWrite_cp0 (s : State) (c : Host.Cell) : (s.outsideWrite c).cp0 = s.cp0 := by
  unfold State.outsideWrite; split <;> rfl
@[simp] theorem State.outsideWrite_tlb (s : State) (c : Host.Cell) : (s.outsideWrite c).tlb = s.tlb := by
  unfold State.outsideWrite; split <;> rfl
@[simp] theorem State.outsideWrite_fpr (s : State) (c : Host.Cell) : (s.outsideWrite c).fpr = s.fpr := by
  unfold State.outsideWrite; split <;> rfl
@[simp] theorem State.outsideWrite_fprTag (s : State) (c : Host.Cell) : (s.outsideWrite c).fprTag = s.fprTag := by
  unfold State.outsideWrite; split <;> rfl
@[simp] theorem State.outsideWrite_fcsr (s : State) (c : Host.Cell) : (s.outsideWrite c).fcsr = s.fcsr := by
  unfold State.outsideWrite; split <;> rfl
@[simp] theorem State.outsideWrite_waiting (s : State) (c : Host.Cell) : (s.outsideWrite c).waiting = s.waiting := by
  unfold State.outsideWrite; split <;> rfl
@[simp] theorem State.outsideWrite_cfg (s : State) (c : Host.Cell) : (s.outsideWrite c).cfg = s.cfg := by
  unfold State.outsideWrite; split <;> rfl
@[simp] theorem State.outsideWrite_env (s : State) (c : Host.Cell) : (s.outsideWrite c).env = s.env := by
  unfold State.outsideWrite; split <;> rfl
@[simp] theorem State.outsideWrite_draws (s : State) (c : Host.Cell) : (s.outsideWrite c).draws = s.draws := by
  unfold State.outsideWrite; split <;> rfl

@[simp] theorem State.settle_pc (t : State) : t.settle.pc = t.pc := by
  unfold State.settle; split
  · split <;> simp
  · rfl
@[simp] theorem State.settle_npc (t : State) : t.settle.npc = t.npc := by
  unfold State.settle; split
  · split <;> simp
  · rfl
@[simp] theorem State.settle_inDelaySlot (t : State) : t.settle.inDelaySlot = t.inDelaySlot := by
  unfold State.settle; split
  · split <;> simp
  · rfl
@[simp] theorem State.settle_loadPending (t : State) : t.settle.loadPending = t.loadPending := by
  unfold State.settle; split
  · split <;> simp
  · rfl
@[simp] theorem State.settle_hi (t : State) : t.settle.hi = t.hi := by
  unfold State.settle; split
  · split <;> simp
  · rfl
@[simp] theorem State.settle_lo (t : State) : t.settle.lo = t.lo := by
  unfold State.settle; split
  · split <;> simp
  · rfl
@[simp] theorem State.settle_pairFresh (t : State) : t.settle.pairFresh = t.pairFresh := by
  unfold State.settle; split
  · split <;> simp
  · rfl
@[simp] theorem State.settle_hist2 (t : State) : t.settle.hist2 = t.hist2 := by
  unfold State.settle; split
  · split <;> simp
  · rfl
@[simp] theorem State.settle_llBit (t : State) : t.settle.llBit = t.llBit := by
  unfold State.settle; split
  · split <;> simp
  · rfl
@[simp] theorem State.settle_llAddr (t : State) : t.settle.llAddr = t.llAddr := by
  unfold State.settle; split
  · split <;> simp
  · rfl
@[simp] theorem State.settle_llVa (t : State) : t.settle.llVa = t.llVa := by
  unfold State.settle; split
  · split <;> simp
  · rfl
@[simp] theorem State.settle_llAttr (t : State) : t.settle.llAttr = t.llAttr := by
  unfold State.settle; split
  · split <;> simp
  · rfl
@[simp] theorem State.settle_llLo (t : State) : t.settle.llLo = t.llLo := by
  unfold State.settle; split
  · split <;> simp
  · rfl
@[simp] theorem State.settle_llHi (t : State) : t.settle.llHi = t.llHi := by
  unfold State.settle; split
  · split <;> simp
  · rfl
@[simp] theorem State.settle_cp0 (t : State) : t.settle.cp0 = t.cp0 := by
  unfold State.settle; split
  · split <;> simp
  · rfl
@[simp] theorem State.settle_tlb (t : State) : t.settle.tlb = t.tlb := by
  unfold State.settle; split
  · split <;> simp
  · rfl
@[simp] theorem State.settle_fpr (t : State) : t.settle.fpr = t.fpr := by
  unfold State.settle; split
  · split <;> simp
  · rfl
@[simp] theorem State.settle_fprTag (t : State) : t.settle.fprTag = t.fprTag := by
  unfold State.settle; split
  · split <;> simp
  · rfl
@[simp] theorem State.settle_fcsr (t : State) : t.settle.fcsr = t.fcsr := by
  unfold State.settle; split
  · split <;> simp
  · rfl
@[simp] theorem State.settle_mem (t : State) : t.settle.mem = t.mem := by
  unfold State.settle; split
  · split <;> simp
  · rfl
@[simp] theorem State.settle_waiting (t : State) : t.settle.waiting = t.waiting := by
  unfold State.settle; split
  · split <;> simp
  · rfl
@[simp] theorem State.settle_cfg (t : State) : t.settle.cfg = t.cfg := by
  unfold State.settle; split
  · split <;> simp
  · rfl
@[simp] theorem State.settle_env (t : State) : t.settle.env = t.env := by
  unfold State.settle; split
  · split <;> simp
  · rfl
@[simp] theorem State.settle_draws (t : State) : t.settle.draws = t.draws := by
  unfold State.settle; split
  · split <;> simp
  · rfl

end Sys2Proof.Machine
end

