-- ==== Sys2Proof/Laws/Views.lean ====
section
/-! SUPPORT. What an update leaves of the views a program has of the state: a general register, an FPU register and its
tag, a byte of memory. First what a write of each does, then that every other update leaves it alone. -/
namespace Sys2Proof.Machine

/-! ## General registers -/

@[simp] theorem State.readGpr_zero (s : State) : s.readGpr 0#5 = 0#32 := by simp [State.readGpr]

theorem State.readGpr_of_ne_zero (s : State) {r : Reg} (h : r ≠ 0#5) : s.readGpr r = s.gpr[r.toNat] := by
  unfold State.readGpr; exact if_neg h

theorem State.readGpr_congr {s t : State} (h : t.gpr = s.gpr) (r : Reg) : t.readGpr r = s.readGpr r := by
  simp [State.readGpr, h]

theorem State.writeGpr_zero (s : State) (v : Word) : s.writeGpr 0#5 v = s := by simp [State.writeGpr]

theorem State.gpr_writeGpr (s : State) {d : Reg} (v : Word) (h : d ≠ 0#5) :
    (s.writeGpr d v).gpr = s.gpr.set d.toNat v := by
  unfold State.writeGpr; exact congrArg State.gpr (if_neg h)

/-- A register reads back what was written to it, and GPR[0] reads 0 (spec/10_state.md R22). -/
theorem State.readGpr_writeGpr_same (s : State) (d : Reg) (v : Word) :
    (s.writeGpr d v).readGpr d = if d = 0#5 then 0#32 else v := by
  by_cases h : d = 0#5
  · subst h; simp
  · rw [State.readGpr_of_ne_zero _ h, if_neg h]; simp [State.gpr_writeGpr s v h]

/-- A write leaves every other register. -/
theorem State.readGpr_writeGpr_ne (s : State) {d r : Reg} (v : Word) (h : r ≠ d) :
    (s.writeGpr d v).readGpr r = s.readGpr r := by
  have hn : d.toNat ≠ r.toNat := fun e => h (BitVec.eq_of_toNat_eq e.symm)
  by_cases hd : d = 0#5
  · subst hd; rw [State.writeGpr_zero]
  · simp [State.readGpr, State.gpr_writeGpr s v hd, hn]

/-- A write leaves the storage of GPR[0]. -/
@[simp] theorem State.gpr_zero_writeGpr (s : State) (d : Reg) (v : Word) : (s.writeGpr d v).gpr[0] = s.gpr[0] := by
  by_cases hd : d = 0#5
  · subst hd; rw [State.writeGpr_zero]
  · have : d.toNat ≠ 0 := fun e => hd (BitVec.eq_of_toNat_eq e)
    simp [State.gpr_writeGpr s v hd, this]

/-! ## FPU registers -/

theorem partner_ne (r : Reg) : partner r ≠ r := by revert r; decide

@[simp] theorem partner_partner (r : Reg) : partner (partner r) = r := by revert r; decide

theorem State.readFpr_congr {s t : State} (h : t.fpr = s.fpr) (r : Reg) : t.readFpr r = s.readFpr r := by
  simp [State.readFpr, h]

theorem State.tagOf_congr {s t : State} (h : t.fprTag = s.fprTag) (r : Reg) : t.tagOf r = s.tagOf r := by
  simp [State.tagOf, h]

/-- What an FPU register holds after a write of one. -/
theorem State.readFpr_putFpr (s : State) (d r : Reg) (v : Word) (t : FprTag) :
    (s.putFpr d v t).readFpr r = if r = d then v else s.readFpr r := by
  by_cases h : r = d
  · subst h; simp [State.readFpr, State.putFpr]
  · have hn : d.toNat ≠ r.toNat := fun e => h (BitVec.eq_of_toNat_eq e.symm)
    simp [State.readFpr, State.putFpr, hn, h]

/-- The tag of an FPU register after a write of one. -/
theorem State.tagOf_putFpr (s : State) (d r : Reg) (v : Word) (t : FprTag) :
    (s.putFpr d v t).tagOf r = if r = d then t else s.tagOf r := by
  by_cases h : r = d
  · subst h; simp [State.tagOf, State.putFpr]
  · have hn : d.toNat ≠ r.toNat := fun e => h (BitVec.eq_of_toNat_eq e.symm)
    simp [State.tagOf, State.putFpr, hn, h]

/-- StoreFPR of a word: the register (spec/10_state.md R52). -/
theorem State.readFpr_storeFpr32 (s : State) (d r : Reg) (v : Word) (t : FprTag) :
    (s.storeFpr32 d v t).readFpr r = if r = d then v else s.readFpr r := by
  simp [State.storeFpr32, State.readFpr_putFpr]
  rfl

/-- StoreFPR of a word: the tags (spec/10_state.md R52). -/
theorem State.tagOf_storeFpr32 (s : State) (d r : Reg) (v : Word) (t : FprTag) :
    (s.storeFpr32 d v t).tagOf r = if r = d then t else if r = partner d then (s.tagOf r).broken else s.tagOf r := by
  simp only [State.storeFpr32, State.tagOf_putFpr]
  split
  · rfl
  · by_cases h : r = partner d
    · subst h; simp [State.tagOf]
    · have hn : (partner d).toNat ≠ r.toNat := fun e => h (BitVec.eq_of_toNat_eq e.symm)
      simp [State.tagOf, hn, h]

/-- StoreFPR of a double word: the registers (spec/10_state.md R52). -/
theorem State.readFpr_storeFpr64 (s : State) (d r : Reg) (v : DWord) (t : FprTag) :
    (s.storeFpr64 d v t).readFpr r =
      if r = partner d then v.extractLsb' 32 32 else if r = d then v.extractLsb' 0 32 else s.readFpr r := by
  simp [State.storeFpr64, State.readFpr_putFpr]

/-- StoreFPR of a double word: the tags (spec/10_state.md R52). -/
theorem State.tagOf_storeFpr64 (s : State) (d r : Reg) (v : DWord) (t : FprTag) :
    (s.storeFpr64 d v t).tagOf r = if r = partner d then t else if r = d then t else s.tagOf r := by
  simp [State.storeFpr64, State.tagOf_putFpr]

/-! ## Memory -/

theorem State.byteAt_congr {s t : State} (h : t.mem = s.mem) (a : Nat) : t.byteAt a = s.byteAt a := by
  simp [State.byteAt, h]

/-! ## Every other update -/

@[simp] theorem State.readFpr_writeGpr (s : State) (d : Reg) (v : Word) (r : Reg) : (s.writeGpr d v).readFpr r = s.readFpr r :=
  State.readFpr_congr (by simp) r
@[simp] theorem State.tagOf_writeGpr (s : State) (d : Reg) (v : Word) (r : Reg) : (s.writeGpr d v).tagOf r = s.tagOf r :=
  State.tagOf_congr (by simp) r
@[simp] theorem State.byteAt_writeGpr (s : State) (d : Reg) (v : Word) (a : Nat) : (s.writeGpr d v).byteAt a = s.byteAt a :=
  State.byteAt_congr (by simp) a

@[simp] theorem State.readGpr_noteExtent (s : State) (r : Reg) : (s.noteExtent).readGpr r = s.readGpr r :=
  State.readGpr_congr (by simp) r
@[simp] theorem State.readFpr_noteExtent (s : State) (r : Reg) : (s.noteExtent).readFpr r = s.readFpr r :=
  State.readFpr_congr (by simp) r
@[simp] theorem State.tagOf_noteExtent (s : State) (r : Reg) : (s.noteExtent).tagOf r = s.tagOf r :=
  State.tagOf_congr (by simp) r
@[simp] theorem State.byteAt_noteExtent (s : State) (a : Nat) : (s.noteExtent).byteAt a = s.byteAt a :=
  State.byteAt_congr (by simp) a

@[simp] theorem State.readGpr_retire (s : State) (l : List Reg) (r : Reg) : (s.retire l).readGpr r = s.readGpr r :=
  State.readGpr_congr (by simp) r
@[simp] theorem State.readFpr_retire (s : State) (l : List Reg) (r : Reg) : (s.retire l).readFpr r = s.readFpr r :=
  State.readFpr_congr (by simp) r
@[simp] theorem State.tagOf_retire (s : State) (l : List Reg) (r : Reg) : (s.retire l).tagOf r = s.tagOf r :=
  State.tagOf_congr (by simp) r
@[simp] theorem State.byteAt_retire (s : State) (l : List Reg) (a : Nat) : (s.retire l).byteAt a = s.byteAt a :=
  State.byteAt_congr (by simp) a

@[simp] theorem State.readGpr_jumpTo (s : State) (x : Word) (r : Reg) : (s.jumpTo x).readGpr r = s.readGpr r :=
  State.readGpr_congr (by simp) r
@[simp] theorem State.readFpr_jumpTo (s : State) (x : Word) (r : Reg) : (s.jumpTo x).readFpr r = s.readFpr r :=
  State.readFpr_congr (by simp) r
@[simp] theorem State.tagOf_jumpTo (s : State) (x : Word) (r : Reg) : (s.jumpTo x).tagOf r = s.tagOf r :=
  State.tagOf_congr (by simp) r
@[simp] theorem State.byteAt_jumpTo (s : State) (x : Word) (a : Nat) : (s.jumpTo x).byteAt a = s.byteAt a :=
  State.byteAt_congr (by simp) a

@[simp] theorem State.readGpr_fallThrough (s : State) (r : Reg) : (s.fallThrough).readGpr r = s.readGpr r :=
  State.readGpr_congr (by simp) r
@[simp] theorem State.readFpr_fallThrough (s : State) (r : Reg) : (s.fallThrough).readFpr r = s.readFpr r :=
  State.readFpr_congr (by simp) r
@[simp] theorem State.tagOf_fallThrough (s : State) (r : Reg) : (s.fallThrough).tagOf r = s.tagOf r :=
  State.tagOf_congr (by simp) r
@[simp] theorem State.byteAt_fallThrough (s : State) (a : Nat) : (s.fallThrough).byteAt a = s.byteAt a :=
  State.byteAt_congr (by simp) a

@[simp] theorem State.readGpr_nullifySlot (s : State) (x : Word) (r : Reg) : (s.nullifySlot x).readGpr r = s.readGpr r :=
  State.readGpr_congr (by simp) r
@[simp] theorem State.readFpr_nullifySlot (s : State) (x : Word) (r : Reg) : (s.nullifySlot x).readFpr r = s.readFpr r :=
  State.readFpr_congr (by simp) r
@[simp] theorem State.tagOf_nullifySlot (s : State) (x : Word) (r : Reg) : (s.nullifySlot x).tagOf r = s.tagOf r :=
  State.tagOf_congr (by simp) r
@[simp] theorem State.byteAt_nullifySlot (s : State) (x : Word) (a : Nat) : (s.nullifySlot x).byteAt a = s.byteAt a :=
  State.byteAt_congr (by simp) a

@[simp] theorem State.readGpr_raise (s : State) (x : Exc) (r : Reg) : (s.raise x).readGpr r = s.readGpr r :=
  State.readGpr_congr (by simp) r
@[simp] theorem State.readFpr_raise (s : State) (x : Exc) (r : Reg) : (s.raise x).readFpr r = s.readFpr r :=
  State.readFpr_congr (by simp) r
@[simp] theorem State.tagOf_raise (s : State) (x : Exc) (r : Reg) : (s.raise x).tagOf r = s.tagOf r :=
  State.tagOf_congr (by simp) r
@[simp] theorem State.byteAt_raise (s : State) (x : Exc) (a : Nat) : (s.raise x).byteAt a = s.byteAt a :=
  State.byteAt_congr (by simp) a

@[simp] theorem State.readGpr_returnFromException (s : State) (r : Reg) : (s.returnFromException).readGpr r = s.readGpr r :=
  State.readGpr_congr (by simp) r
@[simp] theorem State.readFpr_returnFromException (s : State) (r : Reg) : (s.returnFromException).readFpr r = s.readFpr r :=
  State.readFpr_congr (by simp) r
@[simp] theorem State.tagOf_returnFromException (s : State) (r : Reg) : (s.returnFromException).tagOf r = s.tagOf r :=
  State.tagOf_congr (by simp) r
@[simp] theorem State.byteAt_returnFromException (s : State) (a : Nat) : (s.returnFromException).byteAt a = s.byteAt a :=
  State.byteAt_congr (by simp) a

@[simp] theorem State.readGpr_setByte (s : State) (b : Nat) (x : Byte) (r : Reg) : (s.setByte b x).readGpr r = s.readGpr r :=
  State.readGpr_congr (by simp) r
@[simp] theorem State.readFpr_setByte (s : State) (b : Nat) (x : Byte) (r : Reg) : (s.setByte b x).readFpr r = s.readFpr r :=
  State.readFpr_congr (by simp) r
@[simp] theorem State.tagOf_setByte (s : State) (b : Nat) (x : Byte) (r : Reg) : (s.setByte b x).tagOf r = s.tagOf r :=
  State.tagOf_congr (by simp) r

@[simp] theorem State.readGpr_setHalf (s : State) (b : Nat) (x : Half) (r : Reg) : (s.setHalf b x).readGpr r = s.readGpr r :=
  State.readGpr_congr (by simp) r
@[simp] theorem State.readFpr_setHalf (s : State) (b : Nat) (x : Half) (r : Reg) : (s.setHalf b x).readFpr r = s.readFpr r :=
  State.readFpr_congr (by simp) r
@[simp] theorem State.tagOf_setHalf (s : State) (b : Nat) (x : Half) (r : Reg) : (s.setHalf b x).tagOf r = s.tagOf r :=
  State.tagOf_congr (by simp) r

@[simp] theorem State.readGpr_setWord (s : State) (b : Nat) (x : Word) (r : Reg) : (s.setWord b x).readGpr r = s.readGpr r :=
  State.readGpr_congr (by simp) r
@[simp] theorem State.readFpr_setWord (s : State) (b : Nat) (x : Word) (r : Reg) : (s.setWord b x).readFpr r = s.readFpr r :=
  State.readFpr_congr (by simp) r
@[simp] theorem State.tagOf_setWord (s : State) (b : Nat) (x : Word) (r : Reg) : (s.setWord b x).tagOf r = s.tagOf r :=
  State.tagOf_congr (by simp) r

@[simp] theorem State.readGpr_setDword (s : State) (b : Nat) (x : DWord) (r : Reg) : (s.setDword b x).readGpr r = s.readGpr r :=
  State.readGpr_congr (by simp) r
@[simp] theorem State.readFpr_setDword (s : State) (b : Nat) (x : DWord) (r : Reg) : (s.setDword b x).readFpr r = s.readFpr r :=
  State.readFpr_congr (by simp) r
@[simp] theorem State.tagOf_setDword (s : State) (b : Nat) (x : DWord) (r : Reg) : (s.setDword b x).tagOf r = s.tagOf r :=
  State.tagOf_congr (by simp) r

@[simp] theorem State.readGpr_setLane (s : State) (b : Nat) (c : Nat → Bool) (w : Word) (k : Nat) (r : Reg) : (s.setLane b c w k).readGpr r = s.readGpr r :=
  State.readGpr_congr (by simp) r
@[simp] theorem State.readFpr_setLane (s : State) (b : Nat) (c : Nat → Bool) (w : Word) (k : Nat) (r : Reg) : (s.setLane b c w k).readFpr r = s.readFpr r :=
  State.readFpr_congr (by simp) r
@[simp] theorem State.tagOf_setLane (s : State) (b : Nat) (c : Nat → Bool) (w : Word) (k : Nat) (r : Reg) : (s.setLane b c w k).tagOf r = s.tagOf r :=
  State.tagOf_congr (by simp) r

@[simp] theorem State.readGpr_setLanes (s : State) (b : Nat) (c : Nat → Bool) (w : Word) (r : Reg) : (s.setLanes b c w).readGpr r = s.readGpr r :=
  State.readGpr_congr (by simp) r
@[simp] theorem State.readFpr_setLanes (s : State) (b : Nat) (c : Nat → Bool) (w : Word) (r : Reg) : (s.setLanes b c w).readFpr r = s.readFpr r :=
  State.readFpr_congr (by simp) r
@[simp] theorem State.tagOf_setLanes (s : State) (b : Nat) (c : Nat → Bool) (w : Word) (r : Reg) : (s.setLanes b c w).tagOf r = s.tagOf r :=
  State.tagOf_congr (by simp) r

@[simp] theorem State.readGpr_disturbLink (s : State) (r : Reg) : (s.disturbLink).readGpr r = s.readGpr r :=
  State.readGpr_congr (by simp) r
@[simp] theorem State.readFpr_disturbLink (s : State) (r : Reg) : (s.disturbLink).readFpr r = s.readFpr r :=
  State.readFpr_congr (by simp) r
@[simp] theorem State.tagOf_disturbLink (s : State) (r : Reg) : (s.disturbLink).tagOf r = s.tagOf r :=
  State.tagOf_congr (by simp) r
@[simp] theorem State.byteAt_disturbLink (s : State) (a : Nat) : (s.disturbLink).byteAt a = s.byteAt a :=
  State.byteAt_congr (by simp) a

@[simp] theorem State.readFpr_finishLoad (s : State) (d : Reg) (v : Word) (r : Reg) : (s.finishLoad d v).readFpr r = s.readFpr r :=
  State.readFpr_congr (by simp) r
@[simp] theorem State.tagOf_finishLoad (s : State) (d : Reg) (v : Word) (r : Reg) : (s.finishLoad d v).tagOf r = s.tagOf r :=
  State.tagOf_congr (by simp) r
@[simp] theorem State.byteAt_finishLoad (s : State) (d : Reg) (v : Word) (a : Nat) : (s.finishLoad d v).byteAt a = s.byteAt a :=
  State.byteAt_congr (by simp) a

@[simp] theorem State.readFpr_finishSc (s : State) (d : Reg) (ok : Bool) (r : Reg) : (s.finishSc d ok).readFpr r = s.readFpr r :=
  State.readFpr_congr (by simp) r
@[simp] theorem State.tagOf_finishSc (s : State) (d : Reg) (ok : Bool) (r : Reg) : (s.finishSc d ok).tagOf r = s.tagOf r :=
  State.tagOf_congr (by simp) r
@[simp] theorem State.byteAt_finishSc (s : State) (d : Reg) (ok : Bool) (a : Nat) : (s.finishSc d ok).byteAt a = s.byteAt a :=
  State.byteAt_congr (by simp) a

@[simp] theorem State.readGpr_setHiLo (s : State) (v : DWord) (r : Reg) : (s.setHiLo v).readGpr r = s.readGpr r :=
  State.readGpr_congr (by simp) r
@[simp] theorem State.readFpr_setHiLo (s : State) (v : DWord) (r : Reg) : (s.setHiLo v).readFpr r = s.readFpr r :=
  State.readFpr_congr (by simp) r
@[simp] theorem State.tagOf_setHiLo (s : State) (v : DWord) (r : Reg) : (s.setHiLo v).tagOf r = s.tagOf r :=
  State.tagOf_congr (by simp) r
@[simp] theorem State.byteAt_setHiLo (s : State) (v : DWord) (a : Nat) : (s.setHiLo v).byteAt a = s.byteAt a :=
  State.byteAt_congr (by simp) a

@[simp] theorem State.readFpr_spoilEntry (s : State) (hi lo : Bool) (d : DrawSite) (e : Option HiLoRead) (r : Reg) : (s.spoilEntry hi lo d e).readFpr r = s.readFpr r :=
  State.readFpr_congr (by simp) r
@[simp] theorem State.tagOf_spoilEntry (s : State) (hi lo : Bool) (d : DrawSite) (e : Option HiLoRead) (r : Reg) : (s.spoilEntry hi lo d e).tagOf r = s.tagOf r :=
  State.tagOf_congr (by simp) r
@[simp] theorem State.byteAt_spoilEntry (s : State) (hi lo : Bool) (d : DrawSite) (e : Option HiLoRead) (a : Nat) : (s.spoilEntry hi lo d e).byteAt a = s.byteAt a :=
  State.byteAt_congr (by simp) a

@[simp] theorem State.readFpr_spoilWindow (s : State) (hi lo : Bool) (r : Reg) : (s.spoilWindow hi lo).readFpr r = s.readFpr r :=
  State.readFpr_congr (by simp) r
@[simp] theorem State.tagOf_spoilWindow (s : State) (hi lo : Bool) (r : Reg) : (s.spoilWindow hi lo).tagOf r = s.tagOf r :=
  State.tagOf_congr (by simp) r
@[simp] theorem State.byteAt_spoilWindow (s : State) (hi lo : Bool) (a : Nat) : (s.spoilWindow hi lo).byteAt a = s.byteAt a :=
  State.byteAt_congr (by simp) a

@[simp] theorem State.readGpr_putFpr (s : State) (d : Reg) (v : Word) (t : FprTag) (r : Reg) : (s.putFpr d v t).readGpr r = s.readGpr r :=
  State.readGpr_congr (by simp) r
@[simp] theorem State.byteAt_putFpr (s : State) (d : Reg) (v : Word) (t : FprTag) (a : Nat) : (s.putFpr d v t).byteAt a = s.byteAt a :=
  State.byteAt_congr (by simp) a

@[simp] theorem State.readGpr_storeFpr32 (s : State) (d : Reg) (v : Word) (t : FprTag) (r : Reg) : (s.storeFpr32 d v t).readGpr r = s.readGpr r :=
  State.readGpr_congr (by simp) r
@[simp] theorem State.byteAt_storeFpr32 (s : State) (d : Reg) (v : Word) (t : FprTag) (a : Nat) : (s.storeFpr32 d v t).byteAt a = s.byteAt a :=
  State.byteAt_congr (by simp) a

@[simp] theorem State.readGpr_storeFpr64 (s : State) (d : Reg) (v : DWord) (t : FprTag) (r : Reg) : (s.storeFpr64 d v t).readGpr r = s.readGpr r :=
  State.readGpr_congr (by simp) r
@[simp] theorem State.byteAt_storeFpr64 (s : State) (d : Reg) (v : DWord) (t : FprTag) (a : Nat) : (s.storeFpr64 d v t).byteAt a = s.byteAt a :=
  State.byteAt_congr (by simp) a

@[simp] theorem State.readGpr_storeFprAs (s : State) (d : Reg) (m : Fmt) (v : BitVec 64) (t : FprTag) (r : Reg) : (s.storeFprAs d m v t).readGpr r = s.readGpr r :=
  State.readGpr_congr (by simp) r
@[simp] theorem State.byteAt_storeFprAs (s : State) (d : Reg) (m : Fmt) (v : BitVec 64) (t : FprTag) (a : Nat) : (s.storeFprAs d m v t).byteAt a = s.byteAt a :=
  State.byteAt_congr (by simp) a

@[simp] theorem State.readGpr_storeFpr (s : State) (d : Reg) (m : Fmt) (v : BitVec 64) (r : Reg) : (s.storeFpr d m v).readGpr r = s.readGpr r :=
  State.readGpr_congr (by simp) r
@[simp] theorem State.byteAt_storeFpr (s : State) (d : Reg) (m : Fmt) (v : BitVec 64) (a : Nat) : (s.storeFpr d m v).byteAt a = s.byteAt a :=
  State.byteAt_congr (by simp) a

@[simp] theorem State.readGpr_fpSpoil (s : State) (k : DrawSite) (d : Reg) (m : Fmt) (r : Reg) : (s.fpSpoil k d m).readGpr r = s.readGpr r :=
  State.readGpr_congr (by simp) r
@[simp] theorem State.byteAt_fpSpoil (s : State) (k : DrawSite) (d : Reg) (m : Fmt) (a : Nat) : (s.fpSpoil k d m).byteAt a = s.byteAt a :=
  State.byteAt_congr (by simp) a

@[simp] theorem State.readGpr_setFpCc (s : State) (c : Cc) (b : Bool) (r : Reg) : (s.setFpCc c b).readGpr r = s.readGpr r :=
  State.readGpr_congr (by simp) r
@[simp] theorem State.readFpr_setFpCc (s : State) (c : Cc) (b : Bool) (r : Reg) : (s.setFpCc c b).readFpr r = s.readFpr r :=
  State.readFpr_congr (by simp) r
@[simp] theorem State.tagOf_setFpCc (s : State) (c : Cc) (b : Bool) (r : Reg) : (s.setFpCc c b).tagOf r = s.tagOf r :=
  State.tagOf_congr (by simp) r
@[simp] theorem State.byteAt_setFpCc (s : State) (c : Cc) (b : Bool) (a : Nat) : (s.setFpCc c b).byteAt a = s.byteAt a :=
  State.byteAt_congr (by simp) a

@[simp] theorem State.readGpr_sampleLines (s : State) (q : BitVec 6) (r : Reg) : (s.sampleLines q).readGpr r = s.readGpr r :=
  State.readGpr_congr (by simp) r
@[simp] theorem State.readFpr_sampleLines (s : State) (q : BitVec 6) (r : Reg) : (s.sampleLines q).readFpr r = s.readFpr r :=
  State.readFpr_congr (by simp) r
@[simp] theorem State.tagOf_sampleLines (s : State) (q : BitVec 6) (r : Reg) : (s.sampleLines q).tagOf r = s.tagOf r :=
  State.tagOf_congr (by simp) r
@[simp] theorem State.byteAt_sampleLines (s : State) (q : BitVec 6) (a : Nat) : (s.sampleLines q).byteAt a = s.byteAt a :=
  State.byteAt_congr (by simp) a

@[simp] theorem State.readGpr_tick (s : State) (r : Reg) : (s.tick).readGpr r = s.readGpr r :=
  State.readGpr_congr (by simp) r
@[simp] theorem State.readFpr_tick (s : State) (r : Reg) : (s.tick).readFpr r = s.readFpr r :=
  State.readFpr_congr (by simp) r
@[simp] theorem State.tagOf_tick (s : State) (r : Reg) : (s.tick).tagOf r = s.tagOf r :=
  State.tagOf_congr (by simp) r
@[simp] theorem State.byteAt_tick (s : State) (a : Nat) : (s.tick).byteAt a = s.byteAt a :=
  State.byteAt_congr (by simp) a

end Sys2Proof.Machine
end

