-- ==== Sys2Proof/Laws/Memory.lean ====
section
/-! SUPPORT. Memory: a byte reads back what was last written there and every other byte keeps its value; every memory
operation keeps the canonical form; where the bytes of a half word, a word and a double word go. -/
namespace Sys2Proof.Machine

/-! ## One byte -/

/-- A byte after a write of one: the written value at its address, the old one elsewhere. -/
theorem Memory.get?_set (m : Memory) (a b : Nat) (x : Byte) :
    Memory.get? (m.set a x) b = if b = a then some x else Memory.get? m b := by
  induction m with
  | nil => simp [Memory.set, Memory.get?]
  | cons c m ih =>
    obtain ⟨k, v⟩ := c
    simp only [Memory.set]
    split
    · simp [Memory.get?]
    · split
      · next h => subst h; by_cases hb : b = a <;> simp [Memory.get?, hb]
      · by_cases hb : b = k
        · subst hb; simp [Memory.get?]; omega
        · simp [Memory.get?, hb, ih]

/-- The first address of a memory, if it lists any, is above a. -/
def Memory.above (a : Nat) : Memory → Prop
  | [] => True
  | (b, _) :: _ => a < b

theorem Memory.wf_cons (a : Nat) (v : Byte) (m : Memory) :
    Memory.wf ((a, v) :: m) = true ↔ Memory.above a m ∧ Memory.wf m = true := by
  cases m with
  | nil => simp [Memory.wf, Memory.above]
  | cons c m => simp [Memory.wf, Memory.above]

/-- A write keeps the canonical form. -/
theorem Memory.wf_set (m : Memory) (a : Nat) (x : Byte) (h : Memory.wf m = true) : Memory.wf (m.set a x) = true := by
  induction m with
  | nil => rfl
  | cons c m ih =>
    obtain ⟨k, v⟩ := c
    simp only [Memory.set]
    split
    · next hlt => exact (Memory.wf_cons ..).2 ⟨hlt, h⟩
    · split
      · next heq => subst heq; exact (Memory.wf_cons ..).2 ((Memory.wf_cons ..).1 h)
      · have hk : k < a := by omega
        obtain ⟨ha, hm⟩ := (Memory.wf_cons ..).1 h
        refine (Memory.wf_cons ..).2 ⟨?_, ih hm⟩
        cases m with
        | nil => exact hk
        | cons d m =>
          simp only [Memory.set]
          split
          · exact hk
          · split
            · exact hk
            · exact ha

/-- A byte after a write of one. -/
theorem State.byteAt_setByte (s : State) (a b : Nat) (x : Byte) :
    (s.setByte a x).byteAt b = if b = a then x else s.byteAt b := by
  simp only [State.byteAt, State.setByte, Memory.get?_set]
  split <;> rfl

@[simp] theorem State.byteAt_setByte_same (s : State) (a : Nat) (x : Byte) : (s.setByte a x).byteAt a = x := by
  simp [State.byteAt_setByte]

theorem State.byteAt_setByte_ne (s : State) {a b : Nat} (x : Byte) (h : b ≠ a) :
    (s.setByte a x).byteAt b = s.byteAt b := by
  simp [State.byteAt_setByte, h]

/-! ## The canonical form -/

theorem State.wf_setByte (s : State) (a : Nat) (x : Byte) (h : Memory.wf s.mem = true) :
    Memory.wf (s.setByte a x).mem = true := Memory.wf_set _ _ _ h

theorem State.wf_setHalf (s : State) (a : Nat) (v : Half) (h : Memory.wf s.mem = true) :
    Memory.wf (s.setHalf a v).mem = true := by
  unfold State.setHalf; split <;> exact State.wf_setByte _ _ _ (State.wf_setByte _ _ _ h)

theorem State.wf_setWord (s : State) (a : Nat) (v : Word) (h : Memory.wf s.mem = true) :
    Memory.wf (s.setWord a v).mem = true := by
  unfold State.setWord; split <;> exact State.wf_setHalf _ _ _ (State.wf_setHalf _ _ _ h)

theorem State.wf_setDword (s : State) (a : Nat) (v : DWord) (h : Memory.wf s.mem = true) :
    Memory.wf (s.setDword a v).mem = true := by
  unfold State.setDword; split <;> exact State.wf_setWord _ _ _ (State.wf_setWord _ _ _ h)

theorem State.wf_setLane (s : State) (a : Nat) (chosen : Nat → Bool) (w : Word) (k : Nat)
    (h : Memory.wf s.mem = true) : Memory.wf (s.setLane a chosen w k).mem = true := by
  unfold State.setLane; split
  · exact State.wf_setByte _ _ _ h
  · exact h

theorem State.wf_setLanes (s : State) (a : Nat) (chosen : Nat → Bool) (w : Word) (h : Memory.wf s.mem = true) :
    Memory.wf (s.setLanes a chosen w).mem = true :=
  State.wf_setLane _ _ _ _ _ (State.wf_setLane _ _ _ _ _ (State.wf_setLane _ _ _ _ _ (State.wf_setLane _ _ _ _ _ h)))

theorem State.wf_outsideWrite (s : State) (c : Host.Cell) (h : Memory.wf s.mem = true) :
    Memory.wf (s.outsideWrite c).mem = true := by
  unfold State.outsideWrite; split
  · exact State.wf_setByte _ _ _ h
  · exact h

theorem State.wf_outsideWrites (l : List Host.Cell) (s : State) (h : Memory.wf s.mem = true) :
    Memory.wf (l.foldl State.outsideWrite s).mem = true := by
  induction l generalizing s with
  | nil => exact h
  | cons c l ih => exact ih _ (State.wf_outsideWrite _ _ h)

/-- Reset's memory is in canonical form: it lists nothing. -/
theorem State.wf_reset : Memory.wf State.reset.mem = true := rfl

/-! ## Which byte of a value goes where -/

theorem State.byteAt_setHalf (s : State) (a b : Nat) (v : Half) :
    (s.setHalf a v).byteAt b =
      if b = a then byteOf s.cfg.bigEndianMem 2 0 v else if b = a + 1 then byteOf s.cfg.bigEndianMem 2 1 v
      else s.byteAt b := by
  unfold State.setHalf byteOf
  split <;> (simp only [State.byteAt_setByte]; split_ifs <;> first | rfl | omega)

theorem extract_extract {n : Nat} (v : BitVec n) (i w j m : Nat) (h : j + m ≤ w) :
    (v.extractLsb' i w).extractLsb' j m = v.extractLsb' (i + j) m := by
  ext k hk
  simp only [BitVec.getElem_extractLsb', BitVec.getLsbD_extractLsb']
  have : j + k < w := by omega
  simp [this, Nat.add_assoc]

theorem State.byteAt_setWord (s : State) (a b : Nat) (v : Word) :
    (s.setWord a v).byteAt b =
      if b = a then byteOf s.cfg.bigEndianMem 4 0 v else if b = a + 1 then byteOf s.cfg.bigEndianMem 4 1 v
      else if b = a + 2 then byteOf s.cfg.bigEndianMem 4 2 v else if b = a + 3 then byteOf s.cfg.bigEndianMem 4 3 v
      else s.byteAt b := by
  cases hb : s.cfg.bigEndianMem <;>
    (simp only [State.setWord, hb, State.byteAt_setHalf, State.setHalf_cfg, byteOf, if_true, if_false, Bool.false_eq_true]
     split_ifs <;> first | omega | rfl | (rw [extract_extract _ _ _ _ _ (by omega)]))

/-- A byte outside the four is left alone. -/
theorem State.byteAt_setWord_outside (s : State) {a b : Nat} (v : Word) (h : b < a ∨ a + 4 ≤ b) :
    (s.setWord a v).byteAt b = s.byteAt b := by
  rw [State.byteAt_setWord]; split_ifs <;> first | omega | rfl

/-- A byte outside the two is left alone. -/
theorem State.byteAt_setHalf_outside (s : State) {a b : Nat} (v : Half) (h : b < a ∨ a + 2 ≤ b) :
    (s.setHalf a v).byteAt b = s.byteAt b := by
  rw [State.byteAt_setHalf]; split_ifs <;> first | omega | rfl

/-- A byte outside the eight is left alone. -/
theorem State.byteAt_setDword_outside (s : State) {a b : Nat} (v : DWord) (h : b < a ∨ a + 8 ≤ b) :
    (s.setDword a v).byteAt b = s.byteAt b := by
  unfold State.setDword
  split <;> rw [State.byteAt_setWord_outside _ _ (by omega), State.byteAt_setWord_outside _ _ (by omega)]

theorem State.byteAt_setLane (s : State) (a : Nat) (chosen : Nat → Bool) (w : Word) (k b : Nat) :
    (s.setLane a chosen w k).byteAt b =
      if b = a + k ∧ chosen (s.lane k) = true then w.extractLsb' (8 * s.lane k) 8 else s.byteAt b := by
  unfold State.setLane
  by_cases hc : chosen (s.lane k) = true <;> simp [hc, State.byteAt_setByte]

@[simp] theorem State.lane_setLane (s : State) (a : Nat) (chosen : Nat → Bool) (w : Word) (k j : Nat) :
    (s.setLane a chosen w k).lane j = s.lane j := by simp [State.lane]

/-- MemWriteBytes: the byte at offset k of the word takes its lane where that is chosen; every other byte is left alone
(spec/20_memory.md R67). -/
theorem State.byteAt_setLanes (s : State) (a : Nat) (chosen : Nat → Bool) (w : Word) (b : Nat) :
    (s.setLanes a chosen w).byteAt b =
      if a ≤ b ∧ b < a + 4 ∧ chosen (s.lane (b - a)) = true then w.extractLsb' (8 * s.lane (b - a)) 8 else s.byteAt b := by
  simp only [State.setLanes, State.byteAt_setLane, State.lane_setLane]
  by_cases h : a ≤ b ∧ b < a + 4
  · obtain ⟨k, rfl⟩ : ∃ k, b = a + k := ⟨b - a, by omega⟩
    have hk : k = 0 ∨ k = 1 ∨ k = 2 ∨ k = 3 := by omega
    rcases hk with rfl | rfl | rfl | rfl <;> simp
  · rw [if_neg (by omega), if_neg (by omega), if_neg (by omega), if_neg (by omega), if_neg (by tauto)]

/-! ## Reading back -/

/-- A vector is its upper part before its lower part. -/
theorem append_parts {n m : Nat} (v : BitVec (n + m)) : v.extractLsb' m n ++ v.extractLsb' 0 m = v := by
  ext i hi
  rw [BitVec.getElem_append]
  split
  · simp [BitVec.getLsbD_eq_getElem hi]
  · next h =>
    rw [BitVec.getElem_extractLsb', show m + (i - m) = i by omega]
    exact BitVec.getLsbD_eq_getElem hi

theorem halves_of_word (v : Word) : v.extractLsb' 16 16 ++ v.extractLsb' 0 16 = v := append_parts (n := 16) (m := 16) v

theorem bytes_of_half (v : Half) : v.extractLsb' 8 8 ++ v.extractLsb' 0 8 = v := append_parts (n := 8) (m := 8) v

theorem words_of_dword (v : DWord) : v.extractLsb' 32 32 ++ v.extractLsb' 0 32 = v := append_parts (n := 32) (m := 32) v

/-- A half word reads back. -/
theorem State.halfAt_setHalf (s : State) (a : Nat) (v : Half) : (s.setHalf a v).halfAt a = v := by
  cases h : s.cfg.bigEndianMem <;> simp [State.halfAt, State.byteAt_setHalf, byteOf, h, bytes_of_half]

/-- The half word at a depends on its two bytes and the byte order. -/
theorem State.halfAt_congr {s t : State} {a : Nat} (hc : t.cfg = s.cfg) (h : ∀ b, a ≤ b → b < a + 2 → t.byteAt b = s.byteAt b) :
    t.halfAt a = s.halfAt a := by
  unfold State.halfAt
  rw [hc, h a (by omega) (by omega), h (a + 1) (by omega) (by omega)]

/-- The word at a depends on its four bytes and the byte order. -/
theorem State.wordAt_congr {s t : State} {a : Nat} (hc : t.cfg = s.cfg) (h : ∀ b, a ≤ b → b < a + 4 → t.byteAt b = s.byteAt b) :
    t.wordAt a = s.wordAt a := by
  unfold State.wordAt
  rw [hc, State.halfAt_congr hc fun b _ _ => h b (by omega) (by omega),
    State.halfAt_congr hc fun b _ _ => h b (by omega) (by omega)]

/-- The double word at a depends on its eight bytes and the byte order. -/
theorem State.dwordAt_congr {s t : State} {a : Nat} (hc : t.cfg = s.cfg) (h : ∀ b, a ≤ b → b < a + 8 → t.byteAt b = s.byteAt b) :
    t.dwordAt a = s.dwordAt a := by
  unfold State.dwordAt
  rw [hc, State.wordAt_congr hc fun b _ _ => h b (by omega) (by omega),
    State.wordAt_congr hc fun b _ _ => h b (by omega) (by omega)]

theorem State.halfAt_setHalf_outside (s : State) {a b : Nat} (v : Half) (h : b + 2 ≤ a ∨ a + 2 ≤ b) :
    (s.setHalf a v).halfAt b = s.halfAt b :=
  State.halfAt_congr (by simp) fun _ _ _ => State.byteAt_setHalf_outside _ _ (by omega)

/-- A word reads back (spec/20_memory.md R66, R67). -/
theorem State.wordAt_setWord (s : State) (a : Nat) (v : Word) : (s.setWord a v).wordAt a = v := by
  cases h : s.cfg.bigEndianMem <;> simp only [State.wordAt, State.setWord, State.setHalf_cfg, h, if_true, if_false,
    Bool.false_eq_true]
  · rw [State.halfAt_setHalf, State.halfAt_setHalf_outside _ _ (by omega), State.halfAt_setHalf, halves_of_word]
  · rw [State.halfAt_setHalf, State.halfAt_setHalf_outside _ _ (by omega), State.halfAt_setHalf, halves_of_word]

theorem State.wordAt_setWord_outside (s : State) {a b : Nat} (v : Word) (h : b + 4 ≤ a ∨ a + 4 ≤ b) :
    (s.setWord a v).wordAt b = s.wordAt b :=
  State.wordAt_congr (by simp) fun _ _ _ => State.byteAt_setWord_outside _ _ (by omega)

/-- A double word reads back (spec/20_memory.md R78). -/
theorem State.dwordAt_setDword (s : State) (a : Nat) (v : DWord) : (s.setDword a v).dwordAt a = v := by
  cases h : s.cfg.bigEndianMem <;> simp only [State.dwordAt, State.setDword, State.setWord_cfg, h, if_true, if_false,
    Bool.false_eq_true]
  · rw [State.wordAt_setWord, State.wordAt_setWord_outside _ _ (by omega), State.wordAt_setWord, words_of_dword]
  · rw [State.wordAt_setWord, State.wordAt_setWord_outside _ _ (by omega), State.wordAt_setWord, words_of_dword]

end Sys2Proof.Machine
end

