-- ==== Sys2Proof/Laws/Exceptions.lean ====
section
/-! SUPPORT. What taking an exception and returning from one leave: the bits of Cause and Status, the vector, the
address registers. -/
namespace Sys2Proof.Machine

/-! ## Bits -/

theorem getElem_blend (m n o : Word) (i : Nat) (h : i < 32) : (blend m n o)[i] = if m[i] then n[i] else o[i] := by
  simp only [blend, BitVec.getElem_or, BitVec.getElem_and, BitVec.getElem_not]
  cases m[i] <;> simp

theorem getElem_bit (k i : Nat) (h : i < 32) : (1#32 <<< k)[i] = decide (i = k) := by
  rw [BitVec.getElem_shiftLeft]
  by_cases l : i < k
  · simp [l]; omega
  · simp [l]; omega

theorem getElem_putBit (w : Word) (k i : Nat) (b : Bool) (h : i < 32) :
    (putBit w k b)[i] = if i = k then b else w[i] := by
  unfold putBit
  cases b <;> by_cases e : i = k <;>
    simp only [if_true, if_false, Bool.false_eq_true, BitVec.getElem_or, BitVec.getElem_and, BitVec.getElem_not,
      getElem_bit, e] <;> simp

/-- Setting a bit is an or with it. -/
theorem putBit_true (w : Word) (k : Nat) : putBit w k true = w ||| (1#32 <<< k) := rfl

theorem excCode_mask (i : Nat) (h : i < 32) : (0x7C : Word)[i] = decide (2 ≤ i ∧ i ≤ 6) := by revert i; decide

theorem unit_mask (i : Nat) (h : i < 32) : (0x30000000 : Word)[i] = decide (28 ≤ i ∧ i ≤ 29) := by revert i; decide

/-! ## Cause (spec/60_exceptions.md R350) -/

/-- The unit Cause.CE takes: of Coprocessor Unusable only. -/
def Exc.unit : Exc → Option (BitVec 2)
  | .coprocessorUnusable u => some u
  | _ => none

/-- Cause after an entry, in two writes and BD. -/
theorem Exc.causeAfter_eq (x : Exc) (exl ds : Bool) (w : Word) :
    x.causeAfter exl ds w =
      let coded := blend 0x7C (x.code.setWidth 32 <<< 2) w
      let named := match x.unit with
        | some u => blend 0x30000000 (u.setWidth 32 <<< 28) coded
        | none => coded
      if exl then named else putBit named 31 ds := by
  cases x <;> rfl

/-- Every bit of Cause after an entry. -/
theorem Exc.getElem_causeAfter (x : Exc) (exl ds : Bool) (w : Word) (i : Nat) (h : i < 32) :
    (x.causeAfter exl ds w)[i] =
      if i = 31 then (if exl then w[31] else ds)
      else if 28 ≤ i ∧ i ≤ 29 then (x.unit.map (·.getLsbD (i - 28))).getD w[i]
      else if 2 ≤ i ∧ i ≤ 6 then x.code.getLsbD (i - 2)
      else w[i] := by
  have coded : ∀ j (hj : j < 32), (blend 0x7C (x.code.setWidth 32 <<< 2) w)[j] =
      if 2 ≤ j ∧ j ≤ 6 then x.code.getLsbD (j - 2) else w[j] := by
    intro j hj
    simp only [getElem_blend, excCode_mask, decide_eq_true_eq, BitVec.getElem_shiftLeft, BitVec.getElem_setWidth]
    split
    · next hr => simp; omega
    · rfl
  rw [Exc.causeAfter_eq]
  cases hu : x.unit with
  | none =>
    cases exl
    · simp only [Bool.false_eq_true, if_false, getElem_putBit, coded, Option.map_none, Option.getD_none]
      by_cases h28 : 28 ≤ i ∧ i ≤ 29
      · rw [if_pos h28, if_neg (show ¬(2 ≤ i ∧ i ≤ 6) by omega)]
      · rw [if_neg h28]
    · simp only [if_true, coded, Option.map_none, Option.getD_none]
      by_cases h31 : i = 31
      · subst h31; simp
      · by_cases h28 : 28 ≤ i ∧ i ≤ 29
        · rw [if_neg (show ¬(2 ≤ i ∧ i ≤ 6) by omega), if_neg h31, if_pos h28]
        · rw [if_neg h31, if_neg h28]
  | some u =>
    have named : ∀ j (hj : j < 32), (blend 0x30000000 (u.setWidth 32 <<< 28)
        (blend 0x7C (x.code.setWidth 32 <<< 2) w))[j] =
        if 28 ≤ j ∧ j ≤ 29 then u.getLsbD (j - 28) else if 2 ≤ j ∧ j ≤ 6 then x.code.getLsbD (j - 2) else w[j] := by
      intro j hj
      rw [getElem_blend _ _ _ _ hj]
      simp only [unit_mask, decide_eq_true_eq, coded, BitVec.getElem_shiftLeft, BitVec.getElem_setWidth]
      split
      · next hr => simp; omega
      · rfl
    cases exl
    · simp only [Bool.false_eq_true, if_false, getElem_putBit, named, Option.map_some, Option.getD_some]
    · simp only [if_true, named, Option.map_some, Option.getD_some]
      by_cases h31 : i = 31
      · subst h31; simp
      · rw [if_neg h31]

theorem Exc.causeAfter_exccode (x : Exc) (exl ds : Bool) (w : Word) :
    (x.causeAfter exl ds w).extractLsb' 2 5 = x.code := by
  ext i hi
  rw [BitVec.getElem_extractLsb', BitVec.getLsbD_eq_getElem (by omega), x.getElem_causeAfter]
  rw [if_neg (by omega), if_neg (by omega), if_pos (by omega)]
  simp [hi]

theorem Exc.causeAfter_unit (x : Exc) (exl ds : Bool) (w : Word) :
    (x.causeAfter exl ds w).extractLsb' 28 2 = x.unit.getD (w.extractLsb' 28 2) := by
  ext i hi
  rw [BitVec.getElem_extractLsb', BitVec.getLsbD_eq_getElem (by omega), x.getElem_causeAfter]
  rw [if_neg (by omega), if_pos (by omega)]
  cases x.unit with
  | none => simp [BitVec.getElem_extractLsb', BitVec.getLsbD_eq_getElem (show 28 + i < 32 by omega)]
  | some u => simp [hi]

theorem Exc.causeAfter_bd (x : Exc) (exl ds : Bool) (w : Word) :
    (x.causeAfter exl ds w).getLsbD 31 = if exl then w.getLsbD 31 else ds := by
  rw [BitVec.getLsbD_eq_getElem (by omega), x.getElem_causeAfter, if_pos rfl]; rfl

theorem rest_mask (i : Nat) (h : i < 32) (hm : (0x4FFFFF83 : Word)[i] = true) :
    i ≠ 31 ∧ ¬(28 ≤ i ∧ i ≤ 29) ∧ ¬(2 ≤ i ∧ i ≤ 6) := by revert i; decide

theorem Exc.causeAfter_rest (x : Exc) (exl ds : Bool) (w : Word) :
    x.causeAfter exl ds w &&& 0x4FFFFF83 = w &&& 0x4FFFFF83 := by
  ext i hi
  simp only [BitVec.getElem_and]
  cases hm : (0x4FFFFF83 : Word)[i] with
  | false => simp
  | true =>
    obtain ⟨h1, h2, h3⟩ := rest_mask i hi hm
    rw [x.getElem_causeAfter, if_neg h1, if_neg h2, if_neg h3]

/-! ## The entry -/

/-- Taking an exception in s, or in s after noting what the instruction reads, is the entry of R350. -/
theorem State.raise_enters (s : State) (x : Exc) :
    Enters s (s.raise x) x.code (x.offset s.cp0.exl s.cp0.iv) where
  epc := rfl
  bd := by simpa [State.raise, Cp0.enter] using x.causeAfter_bd s.cp0.exl s.inDelaySlot s.cp0.cause
  exccode := by simpa [State.raise, Cp0.enter] using x.causeAfter_exccode s.cp0.exl s.inDelaySlot s.cp0.cause
  causeRest := by simpa [State.raise, Cp0.enter] using x.causeAfter_rest s.cp0.exl s.inDelaySlot s.cp0.cause
  status := rfl
  pc := rfl
  npc := rfl
  slot := rfl
  delay := rfl
  link := rfl
  cp0Rest := ⟨rfl, rfl, rfl, rfl, rfl, rfl, rfl, rfl, rfl, rfl, rfl, rfl⟩
  kept := by intro p hp; cases p <;> simp [Part.same] at hp ⊢

/-- What the address registers hold after an entry that names no address. -/
theorem State.raise_recordsNothing (s : State) (x : Exc) (ha : x.badVAddr = none)
    (hp : x.badVpn2 = none) : RecordsNothing s (s.raise x) := by
  simp [RecordsNothing, State.raise, Cp0.enter, ha, hp]

/-- What they hold after an Address Error. -/
theorem State.raise_recordsAddress (s : State) (va : Word) (k : AccessKind) :
    RecordsAddress s (s.raise (.addressError va k)) va := by
  simp [RecordsAddress, State.raise, Cp0.enter, Exc.badVAddr, Exc.badVpn2]

theorem vpn2_mask (i : Nat) (h : i < 32) : (0xFFFFE000 : Word)[i] = decide (13 ≤ i) := by revert i; decide

theorem blend_vpn2 (va old : Word) :
    (blend 0xFFFFE000 ((va.extractLsb' 13 19).setWidth 32 <<< 13) old).extractLsb' 13 19 = va.extractLsb' 13 19
    ∧ (blend 0xFFFFE000 ((va.extractLsb' 13 19).setWidth 32 <<< 13) old).extractLsb' 0 13 = old.extractLsb' 0 13 := by
  constructor
  · ext i hi
    rw [BitVec.getElem_extractLsb', BitVec.getLsbD_eq_getElem (by omega), getElem_blend]
    simp only [vpn2_mask, decide_eq_true_eq]
    rw [if_pos (by omega)]
    simp [BitVec.getElem_shiftLeft, hi]
  · ext i hi
    rw [BitVec.getElem_extractLsb', BitVec.getLsbD_eq_getElem (by omega), getElem_blend]
    simp only [vpn2_mask, decide_eq_true_eq]
    rw [if_neg (by omega), BitVec.getElem_extractLsb', BitVec.getLsbD_eq_getElem (by omega)]

/-- What they hold after a TLB exception. -/
theorem State.raise_recordsPage (s : State) (x : Exc) (va : Word) (ha : x.badVAddr = some va)
    (hp : x.badVpn2 = some (va.extractLsb' 13 19)) : RecordsPage s (s.raise x) va := by
  have := blend_vpn2 va s.cp0.entryHi
  simp only [RecordsPage, State.raise, Cp0.enter, ha, hp, Option.getD_some]
  exact ⟨trivial, this⟩

/-- Cause.CE stays but for Coprocessor Unusable. -/
theorem State.raise_keepsUnit (s : State) (x : Exc) (hu : x.unit = none) :
    KeepsUnit s (s.raise x) := by
  have := x.causeAfter_unit s.cp0.exl s.inDelaySlot s.cp0.cause
  rw [hu] at this
  simpa [KeepsUnit, State.raise, Cp0.enter] using this

/-- An exception without address or unit, at the general vector. -/
theorem State.raise_plain (s : State) (x : Exc) (ha : x.badVAddr = none) (hp : x.badVpn2 = none)
    (hu : x.unit = none) (ho : ∀ e v, x.offset e v = 0x180) :
    EntersPlain s (s.raise x) x.code :=
  ⟨ho s.cp0.exl s.cp0.iv ▸ s.raise_enters x, s.raise_recordsNothing x ha hp, s.raise_keepsUnit x hu⟩

/-- Coprocessor Unusable. -/
theorem State.raise_unusable (s : State) (u : BitVec 2) :
    EntersUnusable s (s.raise (.coprocessorUnusable u)) u := by
  refine ⟨?_, s.raise_recordsNothing _ rfl rfl, ?_⟩
  · have := s.raise_enters (.coprocessorUnusable u)
    rwa [show (Exc.coprocessorUnusable u).offset s.cp0.exl s.cp0.iv = 0x180 by cases s.cp0.exl <;> rfl] at this
  · have := (Exc.coprocessorUnusable u).causeAfter_unit s.cp0.exl s.inDelaySlot s.cp0.cause
    simpa [State.raise, Cp0.enter, Exc.unit] using this

end Sys2Proof.Machine
end

