-- ==== Sys2Proof/Laws/Ops.lean ====
section
/-! SUPPORT. For each shared operation, once, everything it can do. The proofs of the meanings cite these and unfold no
operation. -/
namespace Sys2Proof.Machine

/-! ## Registers -/

/-- A register write on a state with the same general registers. -/
theorem takesGpr_writeGpr {s u : State} (h : ∀ r, u.readGpr r = s.readGpr r) (d : Reg) (v : Word) :
    TakesGpr s (u.writeGpr d v) d v :=
  ⟨by rw [State.readGpr_writeGpr_same]; rfl, fun r hr => by rw [State.readGpr_writeGpr_ne _ _ hr, h]⟩

theorem KeepsLink.trans {s t u : State} (h : KeepsLink s u) (g : KeepsLink u t) : KeepsLink s t :=
  ⟨g.1.trans h.1, g.2.1.trans h.2.1, g.2.2.trans h.2.2⟩

/-- A frame is a fact about every part that is not excepted. -/
theorem keepsAllBut_trans {l : List Part} {s u t : State} (h : KeepsAllBut l s u) (g : KeepsAllBut l u t) :
    KeepsAllBut l s t := by
  intro p hp
  have a := h p hp
  have b := g p hp
  cases p <;> simp only [Part.same] at a b ⊢
  · exact fun r => (b r).trans (a r)
  · exact ⟨b.1.trans a.1, b.2.trans a.2⟩
  · exact ⟨b.1.trans a.1, a.2.trans b.2⟩
  · exact b.trans a
  · exact b.trans a
  · exact ⟨fun r => (b.1 r).trans (a.1 r), fun r => (b.2 r).trans (a.2 r)⟩
  · exact b.trans a
  · exact fun r => (b r).trans (a r)
  · exact ⟨b.1.trans a.1, b.2.1.trans a.2.1, b.2.2.1.trans a.2.2.1, b.2.2.2.trans a.2.2.2⟩

/-- What may change grows with the list. -/
theorem keepsAllBut_mono {l m : List Part} {s t : State} (hl : ∀ p ∈ l, p ∈ m) (h : KeepsAllBut l s t) :
    KeepsAllBut m s t := fun p hp => h p fun hm => hp (hl p hm)

/-- The general registers are one field. -/
theorem readGpr_congr {s t : State} (h : t.gpr = s.gpr) (r : Reg) : t.readGpr r = s.readGpr r := by
  unfold State.readGpr; simp [h]

/-- A frame, field by field. -/
theorem keepsAllBut_of_fields {l : List Part} {s t : State} (h1 : .gprs ∈ l ∨ t.gpr = s.gpr)
    (h2 : .hiLo ∈ l ∨ (t.hi = s.hi ∧ t.lo = s.lo)) (h3 : .link ∈ l ∨ (t.llBit = s.llBit ∧ KeepsLink s t))
    (h4 : .cp0 ∈ l ∨ t.cp0 = s.cp0) (h5 : .tlb ∈ l ∨ t.tlb = s.tlb)
    (h6 : .fprs ∈ l ∨ (t.fpr = s.fpr ∧ t.fprTag = s.fprTag)) (h7 : .fcsr ∈ l ∨ t.fcsr = s.fcsr)
    (h8 : .memory ∈ l ∨ t.mem = s.mem)
    (h9 : .rest ∈ l ∨ (t.waiting = s.waiting ∧ t.cfg = s.cfg ∧ t.env = s.env ∧ t.draws = s.draws)) :
    KeepsAllBut l s t := by
  intro p hp
  cases p <;> simp only [Part.same]
  · exact fun r => readGpr_congr (h1.resolve_left hp) r
  · exact h2.resolve_left hp
  · exact h3.resolve_left hp
  · exact h4.resolve_left hp
  · exact h5.resolve_left hp
  · obtain ⟨a, b⟩ := h6.resolve_left hp
    exact ⟨fun r => by simp [State.readFpr, a], fun r => by simp [State.tagOf, b]⟩
  · exact h7.resolve_left hp
  · intro a; simp [State.byteAt, h8.resolve_left hp]
  · exact h9.resolve_left hp

/-- The write of one general register, after an instruction that reads these. -/
theorem State.writeBack (s : State) (d : Reg) (v : Word) :
    TakesGpr s ((s.retire [d]).writeGpr d v) d v
      ∧ Advances s ((s.retire [d]).writeGpr d v)
      ∧ KeepsAllBut [.gprs] s ((s.retire [d]).writeGpr d v) := by
  refine ⟨takesGpr_writeGpr (by simp) _ _, by simp [Advances], ?_⟩
  intro p hp; cases p <;> simp [Part.same] at hp ⊢

/-- An instruction that writes nothing. -/
theorem State.passBy (s : State) :
    Advances s (s.retire []) ∧ KeepsAllBut [] s (s.retire []) := by
  refine ⟨by simp [Advances], ?_⟩
  intro p hp; cases p <;> simp [Part.same]

/-! ## ALU (spec/41_alu_immediate.md, spec/42_alu_register.md, spec/43_shift.md) -/

theorem State.aluReg_next (s : State) (rs rt rd : Reg) (f : Word → Word → Word) :
    ∃ t, s.aluReg rs rt rd f = .next t ∧ TakesGpr s t rd (f (s.srcRs rs) (s.srcRt rt)) ∧ Advances s t
      ∧ KeepsAllBut [.gprs] s t := ⟨_, rfl, s.writeBack ..⟩

theorem State.aluImm_next (s : State) (rs rt : Reg) (f : Word → Word) :
    ∃ t, s.aluImm rs rt f = .next t ∧ TakesGpr s t rt (f (s.srcRs rs)) ∧ Advances s t ∧ KeepsAllBut [.gprs] s t :=
  ⟨_, rfl, s.writeBack ..⟩

theorem State.shiftConst_next (s : State) (rt rd : Reg) (f : Word → Word) :
    ∃ t, s.shiftConst rt rd f = .next t ∧ TakesGpr s t rd (f (s.srcRt rt)) ∧ Advances s t ∧ KeepsAllBut [.gprs] s t :=
  ⟨_, rfl, s.writeBack ..⟩

theorem State.shiftVar_next (s : State) (rs rt rd : Reg) (f : Word → Nat → Word) :
    ∃ t, s.shiftVar rs rt rd f = .next t
      ∧ TakesGpr s t rd (f (s.srcRt rt) ((s.srcRs rs).extractLsb' 0 5).toNat) ∧ Advances s t
      ∧ KeepsAllBut [.gprs] s t := ⟨_, rfl, s.writeBack ..⟩

/-- Integer Overflow, or the low 32 bits to the destination. -/
theorem State.aluTrapping_next (s : State) (rd : Reg) (v : BitVec 33) :
    ∃ t, s.aluTrapping rd v = .next t ∧
      if overflows v then EntersPlain s t 12
      else TakesGpr s t rd (v.setWidth 32) ∧ Advances s t ∧ KeepsAllBut [.gprs] s t := by
  by_cases h : overflows v = true
  · exact ⟨_, if_pos h, by
      rw [if_pos h]; exact s.raise_plain .integerOverflow rfl rfl rfl (by intro e v; cases e <;> rfl)⟩
  · exact ⟨_, if_neg h, by rw [if_neg h]; exact s.writeBack ..⟩

theorem State.countBits_cases (s : State) (b : Bool) (rs rt rd : Reg) :
    (rt = rd → ∃ t, s.countBits b rs rt rd = .next t ∧ TakesGpr s t rd (countLeading b (s.srcRs rs)) ∧ Advances s t
      ∧ KeepsAllBut [.gprs] s t) ∧ (rt ≠ rd → s.countBits b rs rt rd = .refused .countRegistersDiffer) :=
  ⟨fun h => ⟨_, if_pos h, s.writeBack ..⟩, fun h => if_neg h⟩

theorem State.condMove_next (s : State) (rs rt rd : Reg) (cond : Word → Bool) :
    ∃ t, s.condMove rs rt rd cond = .next t ∧ Advances s t ∧
      if cond (s.srcRt rt) then TakesGpr s t rd (s.srcRs rs) ∧ KeepsAllBut [.gprs] s t else KeepsAllBut [] s t := by
  by_cases h : cond (s.srcRt rt) = true
  · have w := s.writeBack rd (s.srcRs rs)
    exact ⟨_, if_pos h, w.2.1, by rw [if_pos h]; exact ⟨w.1, w.2.2⟩⟩
  · have w := s.passBy
    exact ⟨_, if_neg h, w.1, by rw [if_neg h]; exact w.2⟩

/-- How many leading bits equal b: that many do, and the next one does not. -/
theorem leadingFrom_spec (b : Bool) (w : Word) (k : Nat) :
    leadingFrom b w k ≤ k ∧ (∀ i, i < leadingFrom b w k → w.getLsbD (k - 1 - i) = b)
      ∧ (leadingFrom b w k < k → w.getLsbD (k - 1 - leadingFrom b w k) ≠ b) := by
  induction k with
  | zero => simp [leadingFrom]
  | succ k ih =>
    obtain ⟨h1, h2, h3⟩ := ih
    simp only [leadingFrom]
    split
    · next hb =>
      refine ⟨by omega, ?_, ?_⟩
      · intro i hi
        rcases i with _ | i
        · simpa using hb
        · have := h2 i (by omega)
          rwa [show k + 1 - 1 - (i + 1) = k - 1 - i by omega]
      · intro hlt
        have := h3 (by omega)
        rwa [show k + 1 - 1 - (leadingFrom b w k + 1) = k - 1 - leadingFrom b w k by omega]
    · next hb => exact ⟨by omega, by omega, by simpa using hb⟩

/-! ## HI and LO (spec/44_muldiv.md) -/

/-- An entry that is not undone, or names another register, leaves the register alone. -/
theorem State.spoilEntry_readGpr (s : State) (hi lo : Bool) (d : DrawSite) (e : Option HiLoRead) (r : Reg)
    (h : ∀ x, e = some x → x.undoneBy hi lo = true → x.rd ≠ r) : (s.spoilEntry hi lo d e).readGpr r = s.readGpr r := by
  cases e with
  | none => rfl
  | some x =>
    simp only [State.spoilEntry]
    split
    · next hu => exact State.readGpr_writeGpr_ne _ _ (fun c => h x rfl hu c.symm)
    · rfl

/-- What the window leaves alone: every general register that no undone entry names. -/
theorem State.spoilWindow_readGpr (s : State) (hi lo : Bool) (r : Reg) (h : ∀ e, Undoes s hi lo e → e.rd ≠ r) :
    (s.spoilWindow hi lo).readGpr r = s.readGpr r := by
  refine Eq.trans (State.spoilEntry_readGpr _ hi lo .window1 s.hist1 r ?_)
    (State.spoilEntry_readGpr s hi lo .window2 s.hist2 r ?_)
  · intro x hx hu; exact h x ⟨.inl hx, by simpa [HiLoRead.undoneBy] using hu⟩
  · intro x hx hu; exact h x ⟨.inr hx, by simpa [HiLoRead.undoneBy] using hu⟩

/-- The younger entry, when undone, leaves its register free. -/
theorem State.spoilWindow_free (s : State) (hi lo : Bool) (e : HiLoRead) (he : s.hist1 = some e)
    (hu : e.undoneBy hi lo = true) (h0 : e.rd ≠ 0) : (s.spoilWindow hi lo).readGpr e.rd = s.freeWord .window1 := by
  have : ∀ u : State, u.draws = s.draws → (u.spoilEntry hi lo .window1 (some e)).readGpr e.rd = s.freeWord .window1 := by
    intro u h
    simp only [State.spoilEntry, hu, if_true, State.readGpr_writeGpr_same, State.freeWord, State.free, h]
    exact if_neg h0
  rw [← this (s.spoilEntry hi lo .window2 s.hist2) (by simp), ← he]; rfl

/-- With no MFHI or MFLO among the last two instructions there is no window. -/
theorem State.spoilWindow_none (s : State) (hi lo : Bool) (h1 : s.hist1 = none) (h2 : s.hist2 = none) :
    s.spoilWindow hi lo = s := by
  cases s; subst h1; subst h2; rfl

/-- All that settle can do: free the register of the MFHI or MFLO, or nothing. -/
theorem State.settle_cases (t : State) :
    t.settle = t ∨ ∃ e, t.hist1 = some e ∧ t.settle = { t.writeGpr e.rd (t.freeWord .window1) with hist1 := none } := by
  unfold State.settle
  cases t.hist1 with
  | none => exact .inl rfl
  | some e =>
    by_cases h : t.undoneAhead e.fromHi t.horizon 2 = true
    · exact .inr ⟨e, rfl, by simp [h]⟩
    · exact .inl (by simp [h])

/-- An MFHI or MFLO that is undone leaves its register free. -/
theorem State.settle_undone (t : State) (e : HiLoRead) (he : t.hist1 = some e)
    (h : t.undoneAhead e.fromHi t.horizon 2 = true) :
    t.settle = { t.writeGpr e.rd (t.freeWord .window1) with hist1 := none } := by
  simp [State.settle, he, h]

/-- One that is not delivers HI or LO. -/
theorem State.settle_eq (t : State) (h : ∀ e, t.hist1 = some e → t.undoneAhead e.fromHi t.horizon 2 = false) :
    t.settle = t := by
  unfold State.settle
  cases he : t.hist1 with
  | none => rfl
  | some e => simp [h e he]

/-- An entry of register 0 is never forgotten. -/
@[simp] theorem HiLoRead.noteWrites_zero (l : List Reg) (b : Bool) :
    HiLoRead.noteWrites l ⟨b, 0#5⟩ = some ⟨b, 0#5⟩ := by simp [HiLoRead.noteWrites]

/-- An instruction that completes in a marked state: as in the state itself, and the mark has moved on. -/
theorem State.retire_marked (s : State) (b : Bool) (l : List Reg) :
    (s.marked b).retire l = { s.retire l with hist1 := none, hist2 := some ⟨b, 0#5⟩ } := by
  cases h : s.llBit <;> simp [State.retire, State.marked, State.noteExtent, h]

/-- One instruction of the look ahead. -/
theorem State.undoneAhead_run (b : Bool) (n k : Nat) (s u : State) (i : Instr) (h : s.begin = .run u)
    (hi : u.nextInstr = .ok i) :
    s.undoneAhead b (n + 1) (k + 1) = (HiLoRead.undoneBy (windowOf i).1 (windowOf i).2 ⟨b, 0⟩ ||
      match exec i (u.marked b) with
      | .next t => t.undoneAhead b n (if t.hist2.isSome then k else k + 1)
      | .fault _ => false
      | .refused _ => false) := by
  cases hx : exec i (u.marked b) <;> simp only [State.undoneAhead, h, hi, hx]

/-- Only MFHI and MFLO look ahead. -/
theorem delivered_eq (i : Instr) (o : Host.Outcome State Fault Refusal) (h : opensWindow i = false) :
    delivered i o = o := by
  cases o <;> simp [delivered, h]

/-- The next state of an instruction's step. -/
theorem delivered_next (i : Instr) (o : Host.Outcome State Fault Refusal) (u : State) (h : delivered i o = .next u) :
    ∃ t, o = .next t ∧ (u = t ∨ u = t.settle) := by
  cases o with
  | next t =>
    refine ⟨t, rfl, ?_⟩
    simp only [delivered, Host.Outcome.next.injEq] at h
    rw [← h]; split
    · exact .inr rfl
    · exact .inl rfl
  | fault f => cases h
  | refused r => cases h

theorem State.accumulate_next (s : State) (rs rt : Reg) (f : DWord → Word → Word → DWord) :
    ∃ t, s.accumulate rs rt f = .next t ∧ t.hi ++ t.lo = f (s.hi ++ s.lo) (s.srcRs rs) (s.srcRt rt) ∧ Advances s t
      ∧ KeepsAllBut [.hiLo] s t := by
  refine ⟨_, rfl, words_of_dword _, by simp [Advances], ?_⟩
  intro p hp; cases p <;> simp [Part.same] at hp ⊢

theorem State.moveFrom_next (s : State) (fromHi : Bool) (rd : Reg) :
    ∃ t, s.moveFrom fromHi rd = .next t ∧ TakesGpr s t rd (if fromHi then s.hi else s.lo) ∧ Advances s t
      ∧ KeepsAllBut [.gprs] s t := by
  have w := s.writeBack rd (if fromHi then s.hi else s.lo)
  refine ⟨_, rfl, w.1, w.2.1, ?_⟩
  intro p hp; have := w.2.2 p hp; cases p <;> exact this

/-! ## Accesses (spec/20_memory.md R69 to R80) -/

/-- An access goes on where alignment and translation allow it, and otherwise takes their exception or stops. -/
theorem State.locate_eq (s : State) (va : Word) (n : Nat) (k : AccessKind) :
    s.locate va n k =
      if va.toNat % n ≠ 0 then .exc (.addressError va k)
      else match s.translate va k with
        | .ok p => .ok p.1
        | .exc x => .exc x
        | .stop f => .stop f := by
  unfold State.locate
  split
  · rfl
  · cases s.translate va k <;> rfl

theorem State.accept_eq (s : State) (pa : PAddr) (n : Nat) (k : AccessKind) :
    s.accept pa n k =
      if s.admits pa.toNat n k then .ok pa else .exc (if k = .fetch then .busErrorFetch else .busErrorData) := rfl

/-- What a load can do. -/
theorem State.loadGpr_eq (s : State) (base rt : Reg) (off : Half) (n : Nat) (read : PAddr → Acc Word) :
    s.loadGpr base rt off n read =
      match s.locate (s.effAddr base off) n .load with
      | .ok pa => match read pa with
        | .ok v => .next (s.finishLoad rt v)
        | .exc x => .next (s.raise x)
        | .stop f => .fault f
      | .exc x => .next (s.raise x)
      | .stop f => .fault f := by
  simp only [State.loadGpr]
  cases s.locate (s.effAddr base off) n .load with
  | ok pa => cases h : read pa <;> simp [Acc.bind, h, Acc.outcome]
  | exc x => rfl
  | stop f => rfl

/-- What a store can do. -/
theorem State.storeGpr_eq (s : State) (base : Reg) (off : Half) (n : Nat) (write : State → PAddr → Acc State) :
    s.storeGpr base off n write =
      match s.locate (s.effAddr base off) n .store with
      | .ok pa => (write (s.retire []).disturbLink pa).outcome s
      | .exc x => .next (s.raise x)
      | .stop f => .fault f := by
  simp only [State.storeGpr]
  cases s.locate (s.effAddr base off) n .store <;> rfl

theorem State.loadFpr_eq (s : State) (base : Reg) (off : Half) (n : Nat) (read : State → PAddr → Acc State) :
    s.loadFpr base off n read =
      match s.locate (s.effAddr base off) n .load with
      | .ok pa => (read (s.retire []).disturbLink pa).outcome s
      | .exc x => .next (s.raise x)
      | .stop f => .fault f := by
  simp only [State.loadFpr]
  cases s.locate (s.effAddr base off) n .load <;> rfl

theorem State.storeFpu_eq (s : State) (base : Reg) (off : Half) (n : Nat) (write : State → PAddr → Acc State) :
    s.storeFpu base off n write =
      match s.locate (s.effAddr base off) n .store with
      | .ok pa => (write (s.retire []).disturbLink pa).outcome s
      | .exc x => .next (s.raise x)
      | .stop f => .fault f := by
  simp only [State.storeFpu]
  cases s.locate (s.effAddr base off) n .store <;> rfl

/-- A load that completes. -/
theorem State.finishLoad_spec (s : State) (rt : Reg) (v : Word) :
    TakesGpr s (s.finishLoad rt v) rt v
      ∧ AdvancesLoading s (s.finishLoad rt v) rt
      ∧ KeepsAllBut [.gprs, .link] s (s.finishLoad rt v)
      ∧ KeepsLink s (s.finishLoad rt v)
      ∧ ((s.finishLoad rt v).llBit = true → s.llBit = true) := by
  have hr : ∀ r, (s.finishLoad rt v).readGpr r
      = (((s.retire [rt]).disturbLink).writeGpr rt v).readGpr r := fun _ => rfl
  refine ⟨⟨?_, fun r h => ?_⟩, by simp [AdvancesLoading, State.finishLoad], ?_, by simp, ?_⟩
  · rw [hr, State.readGpr_writeGpr_same]; rfl
  · rw [hr, State.readGpr_writeGpr_ne _ _ h]; simp
  · intro p hp; cases p <;> simp [Part.same] at hp ⊢
  · simp only [State.finishLoad, State.writeGpr_llBit, State.disturbLink, State.retire_llBit]
    intro h; exact (Bool.and_eq_true_iff.1 h).1

/-! ## SC (spec/20_memory.md R84) -/

/-- The link is for this address, all three of R84(c). -/
theorem State.sameLink_iff (s : State) (va : Word) (pa : PAddr) :
    s.sameLink va pa = true ↔ va = s.llVa ∧ pa = s.llAddr ∧ s.attribute va .store = s.llAttr := by
  simp [State.sameLink, and_assoc]

/-- An SC without a link fails. -/
theorem State.scSucceeds_unlinked (s : State) (va : Word) (pa : PAddr) (h : s.llBit = false) :
    s.scSucceeds va pa = false := by simp [State.scSucceeds, h]

/-- An SC to the LL's address within the extent succeeds. -/
theorem State.scSucceeds_linked (s : State) (va : Word) (pa : PAddr) (h : s.llBit = true)
    (hs : s.sameLink va pa = true) (he : s.linkExtentOk = true) : s.scSucceeds va pa = true := by
  simp [State.scSucceeds, h, hs, he]

/-! ## Branches and jumps (spec/45_branch_jump.md) -/

/-- What a branch can do. -/
theorem State.branch_cases (s : State) (likely taken : Bool) (off : Half) :
    (s.inDelaySlot = true → s.branch likely taken off = .refused .controlInDelaySlot)
      ∧ (s.inDelaySlot = false → ∃ t, s.branch likely taken off = .next t ∧ KeepsAllBut [] s t
        ∧ t.loadPending = none
        ∧ (t.pc, t.npc, t.inDelaySlot) =
          if taken then (s.npc, branchTarget s.pc off, true)
          else if likely then (s.pc + 8, s.pc + 12, false) else (s.npc, s.npc + 4, true)) := by
  refine ⟨fun h => by simp [State.branch, h], fun h => ?_⟩
  refine ⟨_, by simp only [State.branch, h]; rfl, ?_⟩
  cases taken <;> cases likely <;> refine ⟨?_, by simp, by simp⟩ <;>
    (intro p hp; cases p <;> simp [Part.same])

/-- What a linking branch can do. -/
theorem State.branchLink_cases (s : State) (rs : Reg) (likely taken : Bool) (off : Half) :
    (s.inDelaySlot = true → s.branchLink rs likely taken off = .refused .controlInDelaySlot)
      ∧ (s.inDelaySlot = false → rs = 31 → s.branchLink rs likely taken off = .refused .linkRegisterIsSource)
      ∧ (s.inDelaySlot = false → rs ≠ 31 → ∃ t, s.branchLink rs likely taken off = .next t
        ∧ TakesGpr s t 31 (s.pc + 8) ∧ KeepsAllBut [.gprs] s t ∧ t.loadPending = none
        ∧ (t.pc, t.npc, t.inDelaySlot) =
          if taken then (s.npc, branchTarget s.pc off, true)
          else if likely then (s.pc + 8, s.pc + 12, false) else (s.npc, s.npc + 4, true)) := by
  refine ⟨fun h => by simp [State.branchLink, h], fun h e => by simp [State.branchLink, h, e], fun h e => ?_⟩
  refine ⟨_, by simp only [State.branchLink, h, if_neg e]; rfl, ?_⟩
  have w := (s.writeBack 31 (s.pc + 8)).1
  cases taken <;> cases likely <;>
    refine ⟨⟨by simpa using w.1, fun r hr => by simpa using w.2 r hr⟩, ?_, by simp, by simp⟩ <;>
    (intro p hp; cases p <;> simp [Part.same] at hp ⊢)

/-- What a jump can do. -/
theorem State.jump_cases (s : State) (link : Option Reg) (target : Word) :
    (s.inDelaySlot = true → s.jump link target = .refused .controlInDelaySlot)
      ∧ (s.inDelaySlot = false → ∃ t, s.jump link target = .next t
        ∧ (match link with
          | some r => TakesGpr s t r (s.pc + 8)
          | none => ∀ r, t.readGpr r = s.readGpr r)
        ∧ KeepsAllBut [.gprs] s t ∧ t.loadPending = none ∧ (t.pc, t.npc, t.inDelaySlot) = (s.npc, target, true)) := by
  refine ⟨fun h => by simp [State.jump, h], fun h => ?_⟩
  refine ⟨_, by simp only [State.jump, h]; rfl, ?_⟩
  cases link with
  | none =>
    refine ⟨by simp, ?_, by simp, by simp⟩
    intro p hp; cases p <;> simp [Part.same] at hp ⊢
  | some r =>
    have w := (s.writeBack r (s.pc + 8)).1
    refine ⟨⟨by simpa using w.1, fun r hr => by simpa using w.2 r hr⟩, ?_, by simp, by simp⟩
    intro p hp; cases p <;> simp [Part.same] at hp ⊢

/-! ## Traps and coprocessors (spec/46_special.md, spec/60_exceptions.md R348) -/

theorem State.trapIf_next (s : State) (holds : Bool) :
    ∃ t, s.trapIf holds = .next t ∧
      if holds then EntersPlain s t 13 else Advances s t ∧ KeepsAllBut [] s t := by
  cases holds
  · exact ⟨_, rfl, s.passBy⟩
  · exact ⟨_, rfl, s.raise_plain .trap rfl rfl rfl (by intro e v; cases e <;> rfl)⟩

theorem State.withCp0_usable (s : State) (k : Result) (h : s.cp0Usable = true) : s.withCp0 k = k := if_pos h

theorem State.withCp0_unusable (s : State) (k : Result) (h : s.cp0Usable = false) :
    ∃ t, s.withCp0 k = .next t ∧ EntersUnusable s t 0 :=
  ⟨_, if_neg (by simp [h]), by simpa using s.raise_unusable 0⟩

theorem State.withCp1_usable (s : State) (k : Result) (h : s.cp1Usable = true) : s.withCp1 k = k := if_pos h

theorem State.withCp1_unusable (s : State) (k : Result) (h : s.cp1Usable = false) :
    ∃ t, s.withCp1 k = .next t ∧ EntersUnusable s t 1 :=
  ⟨_, if_neg (by simp [h]), by simpa using s.raise_unusable 1⟩

theorem State.withEven_suits (s : State) (fmt : Fmt) (l : List Reg) (k : Result) (h : ∀ r ∈ l, fmtSuits fmt r = true) :
    s.withEven fmt l k = k := if_pos (List.all_eq_true.2 h)

theorem State.withEven_odd (s : State) (l : List Reg) (k : Result) (r : Reg) (hr : r ∈ l) (ho : r.getLsbD 0 = true) :
    s.withEven .d l k = .refused .oddDoubleRegister := by
  refine if_neg fun h => ?_
  have := List.all_eq_true.1 h r hr
  simp [fmtSuits] at this
  rw [BitVec.getLsbD_eq_getElem (by omega)] at ho
  rw [ho] at this; cases this

/-! ## The FPU (spec/49_fpu_arith.md R301) -/

/-- The bookkeeping of an operation: the trap with Cause written and nothing else, or the write with Flags gathered. -/
theorem State.fpFinish_eq (s : State) (x : FpConds) (write : State → State) :
    s.fpFinish x write =
      if fcsrTraps (fcsrSetCause s.fcsr x) then
        .next (State.raise { s with fcsr := fcsrSetCause s.fcsr x } .floatingPoint)
      else .next (write ({ s with fcsr := fcsrOrFlags (fcsrSetCause s.fcsr x) x }.retire [])) := rfl

/-- A register read in a format it holds is not spoiled. -/
theorem State.fpSpoil_held (s : State) (site : DrawSite) (r : Reg) (fmt : Fmt) (h : s.holds r fmt = true) :
    s.fpSpoil site r fmt = s := if_pos h

theorem State.fpOperand_held (s : State) (site : DrawSite) (r : Reg) (fmt : Fmt) (h : s.holds r fmt = true) :
    s.fpOperand site r fmt = s.valueFpr r fmt := if_pos h

/-- StoreFPR of a 32-bit format. -/
theorem State.storeFpr32_takes {s u : State} (hf : ∀ r, u.readFpr r = s.readFpr r) (ht : ∀ r, u.tagOf r = s.tagOf r)
    (d : Reg) (v : Word) (tag : FprTag) : TakesFpr s (u.storeFpr32 d v tag) d v tag := by
  refine ⟨by rw [State.readFpr_storeFpr32]; simp, by rw [State.tagOf_storeFpr32]; simp, fun r h => ?_, ?_,
    fun r h hp => ?_⟩
  · rw [State.readFpr_storeFpr32, if_neg h, hf]
  · rw [State.tagOf_storeFpr32, if_neg (partner_ne d), if_pos rfl, ht]
  · rw [State.tagOf_storeFpr32, if_neg h, if_neg hp, ht]

/-- StoreFPR of a double word. -/
theorem State.storeFpr64_takes {s u : State} (hf : ∀ r, u.readFpr r = s.readFpr r) (ht : ∀ r, u.tagOf r = s.tagOf r)
    (d : Reg) (v : DWord) (tag : FprTag) : TakesFprPair s (u.storeFpr64 d v tag) d v tag := by
  refine ⟨?_, ?_, ?_, ?_, fun r h hp => ⟨?_, ?_⟩⟩
  · rw [State.readFpr_storeFpr64, if_neg (Ne.symm (partner_ne d)), if_pos rfl]
  · rw [State.readFpr_storeFpr64, if_pos rfl]
  · rw [State.tagOf_storeFpr64, if_neg (Ne.symm (partner_ne d)), if_pos rfl]
  · rw [State.tagOf_storeFpr64, if_pos rfl]
  · rw [State.readFpr_storeFpr64, if_neg hp, if_neg h, hf]
  · rw [State.tagOf_storeFpr64, if_neg hp, if_neg h, ht]

/-! ## The TLB (spec/47_cp0.md) -/

theorem State.writeEntry_cases (s : State) (i : Nat) :
    (s.cp0.pageMask.extractLsb' 13 16 ∈ s.cfg.pageMaskLegal →
      s.writeEntry i = .next { s.retire [] with tlb := s.tlb.set i s.entryFromRegs })
    ∧ (s.cp0.pageMask.extractLsb' 13 16 ∉ s.cfg.pageMaskLegal → s.writeEntry i = .fault .pageMaskUnsupported) :=
  ⟨fun h => if_pos h, fun h => if_neg h⟩

/-- Random names an entry. -/
theorem State.randomIndex_lt (s : State) (h : 0 < s.tlbEntries) : s.randomIndex < s.tlbEntries := by
  simp only [State.randomIndex]
  split
  · next hl =>
    have := Nat.mod_lt (s.free .random).toNat (show 0 < s.tlbEntries - (s.cp0.wired &&& s.indexMask).toNat by omega)
    omega
  · simpa using Nat.mod_lt _ h

/-! ## Steps (spec/10_state.md R26) -/

/-- What a step starts with does not depend on the histories of R214. -/
theorem State.nextInstr_hist (s : State) (a b : Option HiLoRead) :
    ({ s with hist1 := a, hist2 := b } : State).nextInstr = s.nextInstr := rfl

theorem State.outsideWrites_hist (l : List Host.Cell) (s : State) (a b : Option HiLoRead) :
    l.foldl State.outsideWrite { s with hist1 := a, hist2 := b }
      = { l.foldl State.outsideWrite s with hist1 := a, hist2 := b } := by
  induction l generalizing s with
  | nil => rfl
  | cons c l ih =>
    have : State.outsideWrite { s with hist1 := a, hist2 := b } c
        = { s.outsideWrite c with hist1 := a, hist2 := b } := by
      unfold State.outsideWrite; split <;> rfl
    rw [List.foldl_cons, List.foldl_cons, this, ih]

theorem State.sample_hist (s : State) (a b : Option HiLoRead) :
    ({ s with hist1 := a, hist2 := b } : State).sample = { s.sample with hist1 := a, hist2 := b } := by
  have h := State.outsideWrites_hist s.input.writes { s with env := s.env.tail, draws := s.draws + 1 } a b
  have ht (t : State) : State.tick { t with hist1 := a, hist2 := b } = { t.tick with hist1 := a, hist2 := b } := by
    unfold State.tick; split <;> rfl
  exact (congrArg (fun t : State => t.tick.sampleLines s.input.irq) h).trans
    (congrArg (fun t : State => t.sampleLines s.input.irq) (ht _))

theorem State.begin_hist (s u : State) (a b : Option HiLoRead) (h : s.begin = .run u) :
    ({ s with hist1 := a, hist2 := b } : State).begin = .run { u with hist1 := a, hist2 := b } := by
  have e : ({ s with hist1 := a, hist2 := b } : State).input.event = s.input.event := rfl
  unfold State.begin at h ⊢
  rw [e]
  cases hv : s.input.event <;> rw [hv] at h <;> simp only [reduceCtorEq] at h
  rw [State.sample_hist]
  unfold State.beginSampled at h ⊢
  split at h
  · cases h
  split at h
  · cases h
  next h1 h2 =>
    cases h
    simp only [h1, h2]
    rfl

theorem State.begin_input (s u : State) (h : s.begin = .run u) : s.input.event = .none := by
  unfold State.begin at h
  cases hv : s.input.event <;> rw [hv] at h <;> simp at h

/-- What a step can do. -/
theorem step_eq (s : State) :
    step s = match s.begin with
      | .done t => .next t
      | .run t => match t.nextInstr with
        | .ok i => delivered i (exec i t)
        | .exc x => .next (t.raise x)
        | .stop f => .fault f := rfl

end Sys2Proof.Machine
end

