-- ==== Sys2Proof/Laws/Accesses.lean ====
section
/-! SUPPORT. The exceptions of an access, from one fact about the instruction: that its checks come first, in the order of
spec/20_memory.md R69. -/
namespace Sys2Proof.Machine

/-- Bit 31 of an address divides user space from the rest. -/
theorem addressBit31 (va : Word) : va.getLsbD 31 = decide (2 ^ 31 ≤ va.toNat) := by
  rw [← BitVec.testBit_toNat, Nat.testBit_eq_decide_div_mod_eq]
  have := va.isLt
  congr 1; simp only [eq_iff_iff]; omega

/-- The three bits that choose a segment above user space. -/
theorem segmentBits (va : Word) : (va.extractLsb' 29 2).toNat = va.toNat / 2 ^ 29 % 4 := by
  simp [Nat.shiftRight_eq_div_pow]

/-- A mapped address goes through the TLB. -/
theorem State.translate_mapped (s : State) (va : Word) (k : AccessKind) (h : Mapped s va) :
    s.translate va k = s.throughTlb va k := by
  have := va.isLt
  unfold State.translate
  rcases h with ⟨h1, h2⟩ | ⟨h1, h2⟩
  · rw [addressBit31, if_pos (by simp; omega), h2]; rfl
  · rw [addressBit31, if_neg (by simp; omega), h2, segmentBits]
    rcases (show va.toNat / 2 ^ 29 % 4 = 2 ∨ va.toNat / 2 ^ 29 % 4 = 3 by omega) with h | h <;> rw [h] <;> rfl

/-- Above user space, user mode takes Address Error. -/
theorem State.translate_forbidden (s : State) (va : Word) (k : AccessKind) (h : 2 ^ 31 ≤ va.toNat) (u : s.userMode = true) :
    s.translate va k = .exc (.addressError va k) := by
  unfold State.translate; rw [addressBit31, if_neg (by simp; omega), if_pos u]

/-- What a lookup with one match answers. -/
theorem State.throughTlb_one (s : State) (va : Word) (k : AccessKind) (e : TlbEntry) (h : s.tlbHits va = [e]) :
    s.throughTlb va k = s.throughPage e va k := by unfold State.throughTlb; rw [h]

/-- An access that fails a check takes its exception, wherever the instruction's checks come first. -/
theorem exec_of_locate {i : Instr} {s : State} {va : Word} {n : Nat} {k : AccessKind}
    {f : PAddr → Acc State} (he : exec i s = ((s.locate va n k).bind f).outcome s) (x : Exc)
    (hx : s.locate va n k = .exc x) : exec i s = .next (s.raise x) := by rw [he, hx]; rfl

/-- The exceptions of an access, from the shape of the meaning: locate first, then what may be rejected. -/
theorem accessTraps_of (i : Instr) (s : State) (va : Word) (n : Nat) (k : AccessKind) (hk : k ≠ .fetch)
    (place : PAddr → PAddr) (size : Nat) (goes : PAddr → Bool) (f : PAddr → Acc State)
    (he : exec i s = ((s.locate va n k).bind f).outcome s)
    (hf : ∀ pa, goes pa = true → s.admits (place pa).toNat size k = false → f pa = .exc .busErrorData) :
    AccessTraps i s va n k place size goes := by
  have lm : ∀ x, va.toNat % n = 0 → s.translate va k = .exc x → s.locate va n k = .exc x := by
    intro x h0 hx; rw [State.locate_eq, if_neg (by simp [h0]), hx]
  have adr : EntersAddressError s (s.raise (.addressError va k)) (if k = .store then 5 else 4) va := by
    have r := s.raise_enters (.addressError va k)
    have q := s.raise_recordsAddress va k
    have u := s.raise_keepsUnit (.addressError va k) rfl
    cases k <;> first
      | exact absurd rfl hk
      | (cases hx : s.cp0.exl <;> rw [hx] at r <;> exact ⟨r, q, u⟩)
  have tlb : ∀ x : Exc, x.badVAddr = some va → x.badVpn2 = some (va.extractLsb' 13 19) → x.unit = none →
      EntersTlb s (s.raise x) x.code (x.offset s.cp0.exl s.cp0.iv) va := fun x h1 h2 h3 =>
    ⟨s.raise_enters x, s.raise_recordsPage x va h1 h2, s.raise_keepsUnit x h3⟩
  refine ⟨?_, ?_, ?_, ?_, ?_, ?_, ?_⟩
  · intro h
    exact ⟨_, exec_of_locate he _ (by rw [State.locate_eq, if_pos h]), adr⟩
  · intro h hu hv
    exact ⟨_, exec_of_locate he _ (lm _ h (s.translate_forbidden va k hv hu)), adr⟩
  · intro h hm hh
    refine ⟨_, exec_of_locate he (.tlbRefill va k) (lm _ h ?_), ?_⟩
    · rw [s.translate_mapped _ _ hm]; unfold State.throughTlb; rw [hh]
    · have t := tlb (.tlbRefill va k) rfl rfl rfl
      cases k <;> first
        | exact absurd rfl hk
        | (cases hx : s.cp0.exl <;> rw [hx] at t <;> exact t)
  · intro e h hm hh hv
    refine ⟨_, exec_of_locate he (.tlbInvalid va k) (lm _ h ?_), ?_⟩
    · rw [s.translate_mapped _ _ hm, s.throughTlb_one va k e hh]; unfold State.throughPage; rw [hv]; rfl
    · have t := tlb (.tlbInvalid va k) rfl rfl rfl
      cases k <;> first
        | exact absurd rfl hk
        | (cases hx : s.cp0.exl <;> rw [hx] at t <;> exact t)
  · intro e h hm hh hv hs hd
    refine ⟨_, exec_of_locate he (.tlbModified va) (lm _ h ?_), ?_⟩
    · rw [s.translate_mapped _ _ hm, s.throughTlb_one va k e hh]; unfold State.throughPage; rw [hv, hs, hd]; rfl
    · have t := tlb (.tlbModified va) rfl rfl rfl
      cases hx : s.cp0.exl <;> rw [hx] at t <;> exact t
  · intro e g l h hm hh
    have : s.locate va n k = .stop .tlbMultipleMatch := by
      rw [State.locate_eq, if_neg (by simp [h]), s.translate_mapped _ _ hm]; unfold State.throughTlb; rw [hh]
    show exec i s = _
    rw [he, this]; rfl
  · intro pa hl hg ha
    refine ⟨s.raise .busErrorData, ?_,
      s.raise_plain .busErrorData rfl rfl rfl (by intro e v; cases e <;> rfl)⟩
    rw [he, hl]; show (f pa).outcome _ = _; rw [hf pa hg ha]; rfl

/-- A load that the platform rejects. -/
theorem State.accept_load_rejected (s : State) (p : PAddr) (n : Nat) (h : s.admits p.toNat n .load = false) :
    s.accept p n .load = .exc .busErrorData := by rw [State.accept_eq, h]; rfl

/-- A store that the platform rejects, in any state with the same parameters. -/
theorem State.accept_store_rejected {s u : State} (hc : u.cfg = s.cfg) (p : PAddr) (n : Nat)
    (h : s.admits p.toNat n .store = false) : u.accept p n .store = .exc .busErrorData := by
  have : u.admits p.toNat n .store = false := by rw [← h]; unfold State.admits; rw [hc]
  rw [State.accept_eq, this]; rfl

end Sys2Proof.Machine
end

