-- ==== Sys2Proof/Laws/Encoding.lean ====
section
/-! SUPPORT. The fields of the words the encoder builds, as the decoder reads them, and a word as its bytes. -/
namespace Sys2Proof

/-- The lower part of two joined fields. -/
theorem extract_append_low {n m : Nat} (a : BitVec n) (b : BitVec m) (i w : Nat) (h : i + w ≤ m) :
    (a ++ b).extractLsb' i w = b.extractLsb' i w := by
  ext k hk
  rw [BitVec.getElem_extractLsb', BitVec.getElem_extractLsb', BitVec.getLsbD_append]
  simp [show i + k < m by omega]

/-- The upper part of two joined fields. -/
theorem extract_append_high {n m : Nat} (a : BitVec n) (b : BitVec m) (i w : Nat) (h : m ≤ i) :
    (a ++ b).extractLsb' i w = a.extractLsb' (i - m) w := by
  ext k hk
  rw [BitVec.getElem_extractLsb', BitVec.getElem_extractLsb', BitVec.getLsbD_append]
  simp [show ¬ i + k < m by omega, show i + k - m = i - m + k by omega]

/-- A field across the seam. -/
theorem extract_append_across {n m : Nat} (a : BitVec n) (b : BitVec m) (i w v : Nat) (h : i + w = m) :
    (a ++ b).extractLsb' i (v + w) = a.extractLsb' 0 v ++ b.extractLsb' i w := by
  ext k hk
  rw [BitVec.getElem_extractLsb', BitVec.getLsbD_append, BitVec.getElem_append]
  by_cases hw : k < w
  · simp [hw, show i + k < m by omega]
  · simp [hw, show ¬ i + k < m by omega, show i + k - m = k - w by omega]

theorem extract_whole {n : Nat} (a : BitVec n) : a.extractLsb' 0 n = a := by
  ext k hk; simp

/-! ## R-Type (spec/30_encoding.md R101) -/

@[simp] theorem opOf_wordR (op : BitVec 6) (rs rt rd sa : BitVec 5) (f : BitVec 6) :
    opOf (wordR op rs rt rd sa f) = op := by
  show BitVec.extractLsb' (n := 6 + 5 + 5 + 5 + 5 + 6) 26 6 (op ++ rs ++ rt ++ rd ++ sa ++ f) = op
  simp (disch := decide) only [extract_append_high, extract_whole, Nat.reduceSub]

@[simp] theorem rsOf_wordR (op : BitVec 6) (rs rt rd sa : BitVec 5) (f : BitVec 6) :
    rsOf (wordR op rs rt rd sa f) = rs := by
  show BitVec.extractLsb' (n := 6 + 5 + 5 + 5 + 5 + 6) 21 5 (op ++ rs ++ rt ++ rd ++ sa ++ f) = rs
  simp (disch := decide) only [extract_append_high, extract_append_low, extract_whole, Nat.reduceSub]

@[simp] theorem rtOf_wordR (op : BitVec 6) (rs rt rd sa : BitVec 5) (f : BitVec 6) :
    rtOf (wordR op rs rt rd sa f) = rt := by
  show BitVec.extractLsb' (n := 6 + 5 + 5 + 5 + 5 + 6) 16 5 (op ++ rs ++ rt ++ rd ++ sa ++ f) = rt
  simp (disch := decide) only [extract_append_high, extract_append_low, extract_whole, Nat.reduceSub]

@[simp] theorem rdOf_wordR (op : BitVec 6) (rs rt rd sa : BitVec 5) (f : BitVec 6) :
    rdOf (wordR op rs rt rd sa f) = rd := by
  show BitVec.extractLsb' (n := 6 + 5 + 5 + 5 + 5 + 6) 11 5 (op ++ rs ++ rt ++ rd ++ sa ++ f) = rd
  simp (disch := decide) only [extract_append_high, extract_append_low, extract_whole, Nat.reduceSub]

@[simp] theorem saOf_wordR (op : BitVec 6) (rs rt rd sa : BitVec 5) (f : BitVec 6) :
    saOf (wordR op rs rt rd sa f) = sa := by
  show BitVec.extractLsb' (n := 6 + 5 + 5 + 5 + 5 + 6) 6 5 (op ++ rs ++ rt ++ rd ++ sa ++ f) = sa
  simp (disch := decide) only [extract_append_high, extract_append_low, extract_whole, Nat.reduceSub]

@[simp] theorem functOf_wordR (op : BitVec 6) (rs rt rd sa : BitVec 5) (f : BitVec 6) :
    functOf (wordR op rs rt rd sa f) = f := by
  show BitVec.extractLsb' (n := 6 + 5 + 5 + 5 + 5 + 6) 0 6 (op ++ rs ++ rt ++ rd ++ sa ++ f) = f
  simp (disch := decide) only [extract_append_low, extract_whole]

/-! ## I-Type (spec/30_encoding.md R101) -/

@[simp] theorem opOf_wordI (op : BitVec 6) (rs rt : BitVec 5) (imm : Half) :
    opOf (wordI op rs rt imm) = op := by
  show BitVec.extractLsb' (n := 6 + 5 + 5 + 16) 26 6 (op ++ rs ++ rt ++ imm) = op
  simp (disch := decide) only [extract_append_high, extract_whole, Nat.reduceSub]

@[simp] theorem rsOf_wordI (op : BitVec 6) (rs rt : BitVec 5) (imm : Half) :
    rsOf (wordI op rs rt imm) = rs := by
  show BitVec.extractLsb' (n := 6 + 5 + 5 + 16) 21 5 (op ++ rs ++ rt ++ imm) = rs
  simp (disch := decide) only [extract_append_high, extract_append_low, extract_whole, Nat.reduceSub]

@[simp] theorem rtOf_wordI (op : BitVec 6) (rs rt : BitVec 5) (imm : Half) :
    rtOf (wordI op rs rt imm) = rt := by
  show BitVec.extractLsb' (n := 6 + 5 + 5 + 16) 16 5 (op ++ rs ++ rt ++ imm) = rt
  simp (disch := decide) only [extract_append_high, extract_append_low, extract_whole, Nat.reduceSub]

@[simp] theorem immOf_wordI (op : BitVec 6) (rs rt : BitVec 5) (imm : Half) :
    immOf (wordI op rs rt imm) = imm := by
  show BitVec.extractLsb' (n := 6 + 5 + 5 + 16) 0 16 (op ++ rs ++ rt ++ imm) = imm
  simp (disch := decide) only [extract_append_low, extract_whole]

/-! ## J-Type, and the words with a code (spec/30_encoding.md R101, R103) -/

@[simp] theorem opOf_wordJ (op : BitVec 6) (idx : BitVec 26) :
    opOf (wordJ op idx) = op := by
  show BitVec.extractLsb' (n := 6 + 26) 26 6 (op ++ idx) = op
  simp (disch := decide) only [extract_append_high, extract_whole, Nat.reduceSub]

@[simp] theorem idxOf_wordJ (op : BitVec 6) (idx : BitVec 26) :
    idxOf (wordJ op idx) = idx := by
  show BitVec.extractLsb' (n := 6 + 26) 0 26 (op ++ idx) = idx
  simp (disch := decide) only [extract_append_low, extract_whole]

@[simp] theorem opOf_wordCode20 (code : BitVec 20) (f : BitVec 6) :
    opOf (wordCode20 code f) = 0#6 := by
  show BitVec.extractLsb' (n := 6 + 20 + 6) 26 6 (0#6 ++ code ++ f) = 0#6
  simp (disch := decide) only [extract_append_high, extract_whole, Nat.reduceSub]

@[simp] theorem code20Of_wordCode20 (code : BitVec 20) (f : BitVec 6) :
    code20Of (wordCode20 code f) = code := by
  show BitVec.extractLsb' (n := 6 + 20 + 6) 6 20 (0#6 ++ code ++ f) = code
  simp (disch := decide) only [extract_append_high, extract_append_low, extract_whole, Nat.reduceSub]

@[simp] theorem functOf_wordCode20 (code : BitVec 20) (f : BitVec 6) :
    functOf (wordCode20 code f) = f := by
  show BitVec.extractLsb' (n := 6 + 20 + 6) 0 6 (0#6 ++ code ++ f) = f
  simp (disch := decide) only [extract_append_low, extract_whole]

@[simp] theorem opOf_wordCode10 (rs rt : BitVec 5) (code : BitVec 10) (f : BitVec 6) :
    opOf (wordCode10 rs rt code f) = 0#6 := by
  show BitVec.extractLsb' (n := 6 + 5 + 5 + 10 + 6) 26 6 (0#6 ++ rs ++ rt ++ code ++ f) = 0#6
  simp (disch := decide) only [extract_append_high, extract_whole, Nat.reduceSub]

@[simp] theorem rsOf_wordCode10 (rs rt : BitVec 5) (code : BitVec 10) (f : BitVec 6) :
    rsOf (wordCode10 rs rt code f) = rs := by
  show BitVec.extractLsb' (n := 6 + 5 + 5 + 10 + 6) 21 5 (0#6 ++ rs ++ rt ++ code ++ f) = rs
  simp (disch := decide) only [extract_append_high, extract_append_low, extract_whole, Nat.reduceSub]

@[simp] theorem rtOf_wordCode10 (rs rt : BitVec 5) (code : BitVec 10) (f : BitVec 6) :
    rtOf (wordCode10 rs rt code f) = rt := by
  show BitVec.extractLsb' (n := 6 + 5 + 5 + 10 + 6) 16 5 (0#6 ++ rs ++ rt ++ code ++ f) = rt
  simp (disch := decide) only [extract_append_high, extract_append_low, extract_whole, Nat.reduceSub]

@[simp] theorem code10Of_wordCode10 (rs rt : BitVec 5) (code : BitVec 10) (f : BitVec 6) :
    code10Of (wordCode10 rs rt code f) = code := by
  show BitVec.extractLsb' (n := 6 + 5 + 5 + 10 + 6) 6 10 (0#6 ++ rs ++ rt ++ code ++ f) = code
  simp (disch := decide) only [extract_append_high, extract_append_low, extract_whole, Nat.reduceSub]

@[simp] theorem functOf_wordCode10 (rs rt : BitVec 5) (code : BitVec 10) (f : BitVec 6) :
    functOf (wordCode10 rs rt code f) = f := by
  show BitVec.extractLsb' (n := 6 + 5 + 5 + 10 + 6) 0 6 (0#6 ++ rs ++ rt ++ code ++ f) = f
  simp (disch := decide) only [extract_append_low, extract_whole]

@[simp] theorem opOf_wordCo (code : BitVec 19) (f : BitVec 6) :
    opOf (wordCo code f) = 16#6 := by
  show BitVec.extractLsb' (n := 6 + 1 + 19 + 6) 26 6 (16#6 ++ 1#1 ++ code ++ f) = 16#6
  simp (disch := decide) only [extract_append_high, extract_whole, Nat.reduceSub]

@[simp] theorem code19Of_wordCo (code : BitVec 19) (f : BitVec 6) :
    code19Of (wordCo code f) = code := by
  show BitVec.extractLsb' (n := 6 + 1 + 19 + 6) 6 19 (16#6 ++ 1#1 ++ code ++ f) = code
  simp (disch := decide) only [extract_append_high, extract_append_low, extract_whole, Nat.reduceSub]

@[simp] theorem functOf_wordCo (code : BitVec 19) (f : BitVec 6) :
    functOf (wordCo code f) = f := by
  show BitVec.extractLsb' (n := 6 + 1 + 19 + 6) 0 6 (16#6 ++ 1#1 ++ code ++ f) = f
  simp (disch := decide) only [extract_append_low, extract_whole]

theorem wordCo_co (code : BitVec 19) (f : BitVec 6) : (wordCo code f).getLsbD 25 = true := by
  have : (wordCo code f).extractLsb' 25 1 = 1#1 := by
    show BitVec.extractLsb' (n := 6 + 1 + 19 + 6) 25 1 (16#6 ++ 1#1 ++ code ++ f) = 1#1
    simp (disch := decide) only [extract_append_high, extract_append_low, extract_whole, Nat.reduceSub]
  have h := congrArg (BitVec.getLsbD · 0) this
  simpa using h

theorem wordR_co (op : BitVec 6) (rs rt rd sa : BitVec 5) (f : BitVec 6) :
    (wordR op rs rt rd sa f).getLsbD 25 = rs.getLsbD 4 := by
  have : (wordR op rs rt rd sa f).extractLsb' 21 5 = rs := rsOf_wordR ..
  have h := congrArg (BitVec.getLsbD · 4) this
  simpa using h

/-- The low eleven bits of an R-Type word: sa and funct. -/
theorem wordR_low (op : BitVec 6) (rs rt rd sa : BitVec 5) (f : BitVec 6) :
    (wordR op rs rt rd sa f).extractLsb' 0 11 = sa ++ f := by
  refine (extract_append_across (op ++ rs ++ rt ++ rd ++ sa) f 0 6 5 rfl).trans ?_
  simp (disch := decide) only [extract_append_low, extract_whole]

/-! ## The cc fields (spec/30_encoding.md R106, R116) -/

@[simp] theorem ccOf_ccField (c : Cc) (sel : BitVec 2) : ccOf (ccField c sel) = c := by
  show BitVec.extractLsb' (n := 3 + 2) 2 3 (c ++ sel) = c
  simp (disch := decide) only [extract_append_high, extract_whole, Nat.reduceSub]

@[simp] theorem selOf_ccField (c : Cc) (sel : BitVec 2) : selOf (ccField c sel) = sel := by
  show BitVec.extractLsb' (n := 3 + 2) 0 2 (c ++ sel) = sel
  simp (disch := decide) only [extract_append_low, extract_whole]

@[simp] theorem ccCmpOf_ccCmpField (c : Cc) : ccCmpOf (ccCmpField c) = c := by
  show BitVec.extractLsb' (n := 3 + 2) 2 3 (c ++ 0#2) = c
  simp (disch := decide) only [extract_append_high, extract_whole, Nat.reduceSub]

@[simp] theorem selOf_ccCmpField (c : Cc) : selOf (ccCmpField c) = 0#2 := by
  show BitVec.extractLsb' (n := 3 + 2) 0 2 (c ++ 0#2) = 0#2
  simp (disch := decide) only [extract_append_low, extract_whole]

/-! ## Bytes (spec/30_encoding.md R100) -/

theorem four_bytes (w : Word) :
    (w.extractLsb' 24 8 ++ w.extractLsb' 16 8 ++ w.extractLsb' 8 8 ++ w.extractLsb' 0 8 : Word) = w := by
  apply BitVec.eq_of_getLsbD_eq
  intro i hi
  show BitVec.getLsbD (w := 8 + 8 + 8 + 8)
    (w.extractLsb' 24 8 ++ w.extractLsb' 16 8 ++ w.extractLsb' 8 8 ++ w.extractLsb' 0 8) i = w.getLsbD i
  simp only [BitVec.getLsbD_append, BitVec.getLsbD_extractLsb']
  split
  · next h => simp [h]
  · split
    · next h1 h => simp [h, show 8 + (i - 8) = i by omega]
    · split
      · next h => simp [h, show 16 + (i - 8 - 8) = i by omega]
      · simp [show i - 8 - 8 - 8 < 8 by omega, show 24 + (i - 8 - 8 - 8) = i by omega]

/-- A word comes back from its bytes, in either byte order. -/
theorem decodeBytes_bytesOfWord (big : Bool) (w : Word) (rest : List Byte) :
    decodeBytes big (bytesOfWord big w ++ rest) = (decode w).map (·, rest) := by
  cases big <;> simp [bytesOfWord, decodeBytes, wordOfBytes, four_bytes]

end Sys2Proof
end

