-- ==== Sys2Proof/Laws/Fpu.lean ====
section
/-! SUPPORT. FCSR after an FPU operation, bit by bit, and how an operation ends (spec/49_fpu_arith.md R301). -/
namespace Sys2Proof.Machine

/-! ## FCSR -/

theorem causeField_mask (i : Nat) (h : i < 32) : (0x3F000 : Word)[i] = decide (12 ≤ i ∧ i < 18) := by revert i; decide

theorem fcsrRest_mask (i : Nat) (h : i < 32) :
    (0xFFFC0F83 : Word)[i] = decide (i < 2 ∨ (7 ≤ i ∧ i < 12) ∨ 18 ≤ i) := by revert i; decide

/-- Every bit of FCSR after Cause is written. -/
theorem getElem_fcsrSetCause (w : Word) (x : FpConds) (i : Nat) (h : i < 32) :
    (fcsrSetCause w x)[i] = if 12 ≤ i ∧ i < 18 then x.bits.getLsbD (i - 12) else w[i] := by
  unfold fcsrSetCause
  rw [getElem_blend _ _ _ _ h, causeField_mask i h]
  by_cases hh : 12 ≤ i ∧ i < 18
  · simp only [hh, and_self, decide_true, if_true]
    rw [BitVec.getElem_shiftLeft]; simp; omega
  · simp [hh]

/-- Every bit of FCSR after Flags gathers the conditions. -/
theorem getElem_fcsrOrFlags (w : Word) (x : FpConds) (i : Nat) (h : i < 32) :
    (fcsrOrFlags w x)[i] = (w[i] || (decide (2 ≤ i ∧ i < 7) && x.bits.getLsbD (i - 2))) := by
  unfold fcsrOrFlags
  rw [BitVec.getElem_or, BitVec.getElem_shiftLeft]
  congr 1
  by_cases h2 : i < 2
  · simp [h2]
  · by_cases h7 : i < 7
    · simp [h2, h7, show 2 ≤ i by omega]; omega
    · simp [h2, h7, show ¬ (i - 2 < 5) by omega]

/-- FCSR after an operation that traps: Cause alone. -/
theorem fcsrAfter_setCause (w : Word) (x : FpConds) : FcsrAfter w (fcsrSetCause w x) x false := by
  refine ⟨?_, ?_, ?_⟩
  · apply BitVec.eq_of_getLsbD_eq; intro i hi
    simp only [fcsrCause, BitVec.getLsbD_extractLsb', hi, decide_true, Bool.true_and]
    rw [BitVec.getLsbD_eq_getElem (by omega), getElem_fcsrSetCause _ _ _ (by omega), if_pos (by omega)]; congr 1; omega
  · apply BitVec.eq_of_getLsbD_eq; intro i hi
    simp only [fcsrFlags, BitVec.getLsbD_extractLsb', hi, decide_true, Bool.true_and, Bool.false_eq_true, if_false]
    rw [BitVec.getLsbD_eq_getElem (by omega), getElem_fcsrSetCause _ _ _ (by omega), if_neg (by omega),
      BitVec.getLsbD_eq_getElem]
  · ext i hi
    rw [BitVec.getElem_and, BitVec.getElem_and, fcsrRest_mask i hi, getElem_fcsrSetCause _ _ _ hi]
    by_cases hh : 12 ≤ i ∧ i < 18
    · rw [show decide (i < 2 ∨ (7 ≤ i ∧ i < 12) ∨ 18 ≤ i) = false by simp; omega]; simp
    · rw [if_neg hh]

/-- FCSR after an operation that does not: Cause, and Flags gathered. -/
theorem fcsrAfter_orFlags (w : Word) (x : FpConds) : FcsrAfter w (fcsrOrFlags (fcsrSetCause w x) x) x true := by
  refine ⟨?_, ?_, ?_⟩
  · apply BitVec.eq_of_getLsbD_eq; intro i hi
    simp only [fcsrCause, BitVec.getLsbD_extractLsb', hi, decide_true, Bool.true_and]
    rw [BitVec.getLsbD_eq_getElem (by omega), getElem_fcsrOrFlags _ _ _ (by omega), getElem_fcsrSetCause _ _ _ (by omega),
      if_pos (by omega), show decide (2 ≤ 12 + i ∧ 12 + i < 7) = false by simp; omega]
    simp
  · apply BitVec.eq_of_getLsbD_eq; intro i hi
    simp only [fcsrFlags, BitVec.getLsbD_extractLsb', hi, decide_true, Bool.true_and, if_true, BitVec.getLsbD_or,
      BitVec.getLsbD_setWidth]
    rw [BitVec.getLsbD_eq_getElem (by omega), getElem_fcsrOrFlags _ _ _ (by omega), getElem_fcsrSetCause _ _ _ (by omega),
      if_neg (by omega), show decide (2 ≤ 2 + i ∧ 2 + i < 7) = true by simp; omega]
    simp [BitVec.getLsbD_eq_getElem (show 2 + i < 32 by omega)]
  · ext i hi
    rw [BitVec.getElem_and, BitVec.getElem_and, fcsrRest_mask i hi, getElem_fcsrOrFlags _ _ _ hi,
      getElem_fcsrSetCause _ _ _ hi]
    by_cases hh : i < 2 ∨ (7 ≤ i ∧ i < 12) ∨ 18 ≤ i
    · rw [if_neg (by omega), show decide (2 ≤ i ∧ i < 7) = false by simp; omega]; simp
    · rw [show decide (i < 2 ∨ (7 ≤ i ∧ i < 12) ∨ 18 ≤ i) = false by simp at hh ⊢; omega]; simp

/-- The conditions trap exactly when Cause and Enables say so. -/
theorem fcsrTraps_setCause (w : Word) (x : FpConds) : fcsrTraps (fcsrSetCause w x) = true ↔ FpTraps w x := by
  have h1 := (fcsrAfter_setCause w x).1
  have h2 : fcsrEnables (fcsrSetCause w x) = fcsrEnables w := by
    apply BitVec.eq_of_getLsbD_eq; intro i hi
    simp only [fcsrEnables, BitVec.getLsbD_extractLsb', hi, decide_true, Bool.true_and]
    rw [BitVec.getLsbD_eq_getElem (by omega), getElem_fcsrSetCause _ _ _ (by omega), if_neg (by omega),
      BitVec.getLsbD_eq_getElem]
  unfold fcsrTraps FpTraps
  rw [h1, h2, Bool.or_eq_true, decide_eq_true_eq]
  apply or_congr
  · clear h1 h2
    rcases x with ⟨a, b, c, d, e, f⟩; revert a b c d e f; decide
  · rfl

/-! ## How an operation ends -/

/-- An operation that ends in fpFinish: the trap, or what its write leaves. -/
theorem fpEnds_of_fpFinish (i : Instr) (s : State) (x : FpConds) (write : State → State) (P : State → Prop)
    (he : exec i s = s.fpFinish x write)
    (hw : P (write (State.retire { s with fcsr := fcsrOrFlags (fcsrSetCause s.fcsr x) x } []))
      ∧ Advances s (write (State.retire { s with fcsr := fcsrOrFlags (fcsrSetCause s.fcsr x) x } []))) :
    FpEnds i s x P := by
  constructor
  · intro h
    refine ⟨_, he.trans (by rw [State.fpFinish_eq, if_pos ((fcsrTraps_setCause _ _).2 h)]), _,
      fcsrAfter_setCause _ _, ?_⟩
    exact State.raise_plain { s with fcsr := fcsrSetCause s.fcsr x } .floatingPoint rfl rfl rfl
      (by intro e v; cases e <;> rfl)
  · intro h
    exact ⟨_, he.trans (by rw [State.fpFinish_eq, if_neg (fun c => h ((fcsrTraps_setCause _ _).1 c))]), hw⟩

/-- StoreFPR in a format. -/
theorem State.storeFpr_takes {s u : State} (hf : u.fpr = s.fpr) (ht : u.fprTag = s.fprTag) (d : Reg) (fmt : Fmt)
    (v : BitVec 64) : TakesFormat s (u.storeFpr d fmt v) d fmt v := by
  have a : ∀ r, u.readFpr r = s.readFpr r := fun r => by simp [State.readFpr, hf]
  have b : ∀ r, u.tagOf r = s.tagOf r := fun r => by simp [State.tagOf, ht]
  cases fmt
  · exact State.storeFpr32_takes a b d _ _
  · exact State.storeFpr64_takes a b d _ _
  · exact State.storeFpr32_takes a b d _ _

/-- StoreFPR writes the FPU registers and their tags only. -/
theorem State.storeFpr_fields (u : State) (d : Reg) (fmt : Fmt) (v : BitVec 64) :
    ∃ a b, u.storeFpr d fmt v = { u with fpr := a, fprTag := b } := by
  cases fmt <;> exact ⟨_, _, rfl⟩

/-- The write of a result, after an operation that does not trap. -/
theorem State.storeFpr_finish (s : State) (fd : Reg) (fmt : Fmt) (v : BitVec 64) (x : FpConds) :
    let t := State.storeFpr (State.retire { s with fcsr := fcsrOrFlags (fcsrSetCause s.fcsr x) x } []) fd fmt v
    (TakesFormat s t fd fmt v ∧ FcsrAfter s.fcsr t.fcsr x true ∧ KeepsAllBut [.fprs, .fcsr] s t) ∧ Advances s t := by
  have w := State.storeFpr_takes (s := s)
    (u := State.retire { s with fcsr := fcsrOrFlags (fcsrSetCause s.fcsr x) x } []) (by simp) (by simp) fd fmt v
  obtain ⟨a, b, h⟩ := State.storeFpr_fields
    (State.retire { s with fcsr := fcsrOrFlags (fcsrSetCause s.fcsr x) x } []) fd fmt v
  refine ⟨⟨w, ?_, ?_⟩, ?_⟩
  · rw [h]; simpa using fcsrAfter_orFlags s.fcsr x
  · rw [h]; apply keepsAllBut_of_fields <;> simp
  · rw [h]; simp [Advances]

end Sys2Proof.Machine
end

