-- ==== Sys2Proof/Laws/PerInstr.lean ====
section
/-! SUPPORT. The statement made for every instruction, one lemma per constructor: decoding the word of an instruction
gives the instruction back, an idiom as the core instruction it stands for (spec/30_encoding.md R125). -/
namespace Sys2Proof.Laws.Codec

/-- Decoding the word of i gives i, or the core instruction of the idiom i. -/
def Statement (i : Instr) : Prop := decode (encode i) = .ok i.canonical

theorem add (rs : Reg) (rt : Reg) (rd : Reg) : Statement (.add rs rt rd) := by
  unfold Statement
  show decode (wordR 0 rs rt rd 0 32) = .ok (.add rs rt rd)
  unfold decode; rw [opOf_wordR]
  show decodeSpecial _ = _
  unfold decodeSpecial; rw [functOf_wordR]
  show whenZero _ _ = _
  simp [whenZero]
theorem addu (rs : Reg) (rt : Reg) (rd : Reg) : Statement (.addu rs rt rd) := by
  unfold Statement
  show decode (wordR 0 rs rt rd 0 33) = .ok (.addu rs rt rd)
  unfold decode; rw [opOf_wordR]
  show decodeSpecial _ = _
  unfold decodeSpecial; rw [functOf_wordR]
  show whenZero _ _ = _
  simp [whenZero]
theorem sub (rs : Reg) (rt : Reg) (rd : Reg) : Statement (.sub rs rt rd) := by
  unfold Statement
  show decode (wordR 0 rs rt rd 0 34) = .ok (.sub rs rt rd)
  unfold decode; rw [opOf_wordR]
  show decodeSpecial _ = _
  unfold decodeSpecial; rw [functOf_wordR]
  show whenZero _ _ = _
  simp [whenZero]
theorem subu (rs : Reg) (rt : Reg) (rd : Reg) : Statement (.subu rs rt rd) := by
  unfold Statement
  show decode (wordR 0 rs rt rd 0 35) = .ok (.subu rs rt rd)
  unfold decode; rw [opOf_wordR]
  show decodeSpecial _ = _
  unfold decodeSpecial; rw [functOf_wordR]
  show whenZero _ _ = _
  simp [whenZero]
theorem and (rs : Reg) (rt : Reg) (rd : Reg) : Statement (.and rs rt rd) := by
  unfold Statement
  show decode (wordR 0 rs rt rd 0 36) = .ok (.and rs rt rd)
  unfold decode; rw [opOf_wordR]
  show decodeSpecial _ = _
  unfold decodeSpecial; rw [functOf_wordR]
  show whenZero _ _ = _
  simp [whenZero]
theorem or (rs : Reg) (rt : Reg) (rd : Reg) : Statement (.or rs rt rd) := by
  unfold Statement
  show decode (wordR 0 rs rt rd 0 37) = .ok (.or rs rt rd)
  unfold decode; rw [opOf_wordR]
  show decodeSpecial _ = _
  unfold decodeSpecial; rw [functOf_wordR]
  show whenZero _ _ = _
  simp [whenZero]
theorem xor (rs : Reg) (rt : Reg) (rd : Reg) : Statement (.xor rs rt rd) := by
  unfold Statement
  show decode (wordR 0 rs rt rd 0 38) = .ok (.xor rs rt rd)
  unfold decode; rw [opOf_wordR]
  show decodeSpecial _ = _
  unfold decodeSpecial; rw [functOf_wordR]
  show whenZero _ _ = _
  simp [whenZero]
theorem nor (rs : Reg) (rt : Reg) (rd : Reg) : Statement (.nor rs rt rd) := by
  unfold Statement
  show decode (wordR 0 rs rt rd 0 39) = .ok (.nor rs rt rd)
  unfold decode; rw [opOf_wordR]
  show decodeSpecial _ = _
  unfold decodeSpecial; rw [functOf_wordR]
  show whenZero _ _ = _
  simp [whenZero]
theorem slt (rs : Reg) (rt : Reg) (rd : Reg) : Statement (.slt rs rt rd) := by
  unfold Statement
  show decode (wordR 0 rs rt rd 0 42) = .ok (.slt rs rt rd)
  unfold decode; rw [opOf_wordR]
  show decodeSpecial _ = _
  unfold decodeSpecial; rw [functOf_wordR]
  show whenZero _ _ = _
  simp [whenZero]
theorem sltu (rs : Reg) (rt : Reg) (rd : Reg) : Statement (.sltu rs rt rd) := by
  unfold Statement
  show decode (wordR 0 rs rt rd 0 43) = .ok (.sltu rs rt rd)
  unfold decode; rw [opOf_wordR]
  show decodeSpecial _ = _
  unfold decodeSpecial; rw [functOf_wordR]
  show whenZero _ _ = _
  simp [whenZero]
theorem movn (rs : Reg) (rt : Reg) (rd : Reg) : Statement (.movn rs rt rd) := by
  unfold Statement
  show decode (wordR 0 rs rt rd 0 11) = .ok (.movn rs rt rd)
  unfold decode; rw [opOf_wordR]
  show decodeSpecial _ = _
  unfold decodeSpecial; rw [functOf_wordR]
  show whenZero _ _ = _
  simp [whenZero]
theorem movz (rs : Reg) (rt : Reg) (rd : Reg) : Statement (.movz rs rt rd) := by
  unfold Statement
  show decode (wordR 0 rs rt rd 0 10) = .ok (.movz rs rt rd)
  unfold decode; rw [opOf_wordR]
  show decodeSpecial _ = _
  unfold decodeSpecial; rw [functOf_wordR]
  show whenZero _ _ = _
  simp [whenZero]
theorem sllv (rs : Reg) (rt : Reg) (rd : Reg) : Statement (.sllv rs rt rd) := by
  unfold Statement
  show decode (wordR 0 rs rt rd 0 4) = .ok (.sllv rs rt rd)
  unfold decode; rw [opOf_wordR]
  show decodeSpecial _ = _
  unfold decodeSpecial; rw [functOf_wordR]
  show whenZero _ _ = _
  simp [whenZero]
theorem srlv (rs : Reg) (rt : Reg) (rd : Reg) : Statement (.srlv rs rt rd) := by
  unfold Statement
  show decode (wordR 0 rs rt rd 0 6) = .ok (.srlv rs rt rd)
  unfold decode; rw [opOf_wordR]
  show decodeSpecial _ = _
  unfold decodeSpecial; rw [functOf_wordR]
  show whenZero _ _ = _
  simp [whenZero]
theorem srav (rs : Reg) (rt : Reg) (rd : Reg) : Statement (.srav rs rt rd) := by
  unfold Statement
  show decode (wordR 0 rs rt rd 0 7) = .ok (.srav rs rt rd)
  unfold decode; rw [opOf_wordR]
  show decodeSpecial _ = _
  unfold decodeSpecial; rw [functOf_wordR]
  show whenZero _ _ = _
  simp [whenZero]
theorem sll (rt : Reg) (rd : Reg) (sa : BitVec 5) : Statement (.sll rt rd sa) := by
  unfold Statement
  show decode (wordR 0 0 rt rd sa 0) = .ok (.sll rt rd sa)
  unfold decode; rw [opOf_wordR]
  show decodeSpecial _ = _
  unfold decodeSpecial; rw [functOf_wordR]
  show whenZero _ _ = _
  simp [whenZero]
theorem srl (rt : Reg) (rd : Reg) (sa : BitVec 5) : Statement (.srl rt rd sa) := by
  unfold Statement
  show decode (wordR 0 0 rt rd sa 2) = .ok (.srl rt rd sa)
  unfold decode; rw [opOf_wordR]
  show decodeSpecial _ = _
  unfold decodeSpecial; rw [functOf_wordR]
  show whenZero _ _ = _
  simp [whenZero]
theorem sra (rt : Reg) (rd : Reg) (sa : BitVec 5) : Statement (.sra rt rd sa) := by
  unfold Statement
  show decode (wordR 0 0 rt rd sa 3) = .ok (.sra rt rd sa)
  unfold decode; rw [opOf_wordR]
  show decodeSpecial _ = _
  unfold decodeSpecial; rw [functOf_wordR]
  show whenZero _ _ = _
  simp [whenZero]
theorem mult (rs : Reg) (rt : Reg) : Statement (.mult rs rt) := by
  unfold Statement
  show decode (wordR 0 rs rt 0 0 24) = .ok (.mult rs rt)
  unfold decode; rw [opOf_wordR]
  show decodeSpecial _ = _
  unfold decodeSpecial; rw [functOf_wordR]
  show whenZero _ _ = _
  simp [whenZero]
theorem multu (rs : Reg) (rt : Reg) : Statement (.multu rs rt) := by
  unfold Statement
  show decode (wordR 0 rs rt 0 0 25) = .ok (.multu rs rt)
  unfold decode; rw [opOf_wordR]
  show decodeSpecial _ = _
  unfold decodeSpecial; rw [functOf_wordR]
  show whenZero _ _ = _
  simp [whenZero]
theorem div (rs : Reg) (rt : Reg) : Statement (.div rs rt) := by
  unfold Statement
  show decode (wordR 0 rs rt 0 0 26) = .ok (.div rs rt)
  unfold decode; rw [opOf_wordR]
  show decodeSpecial _ = _
  unfold decodeSpecial; rw [functOf_wordR]
  show whenZero _ _ = _
  simp [whenZero]
theorem divu (rs : Reg) (rt : Reg) : Statement (.divu rs rt) := by
  unfold Statement
  show decode (wordR 0 rs rt 0 0 27) = .ok (.divu rs rt)
  unfold decode; rw [opOf_wordR]
  show decodeSpecial _ = _
  unfold decodeSpecial; rw [functOf_wordR]
  show whenZero _ _ = _
  simp [whenZero]
theorem mfhi (rd : Reg) : Statement (.mfhi rd) := by
  unfold Statement
  show decode (wordR 0 0 0 rd 0 16) = .ok (.mfhi rd)
  unfold decode; rw [opOf_wordR]
  show decodeSpecial _ = _
  unfold decodeSpecial; rw [functOf_wordR]
  show whenZero _ _ = _
  simp [whenZero]
theorem mflo (rd : Reg) : Statement (.mflo rd) := by
  unfold Statement
  show decode (wordR 0 0 0 rd 0 18) = .ok (.mflo rd)
  unfold decode; rw [opOf_wordR]
  show decodeSpecial _ = _
  unfold decodeSpecial; rw [functOf_wordR]
  show whenZero _ _ = _
  simp [whenZero]
theorem mthi (rs : Reg) : Statement (.mthi rs) := by
  unfold Statement
  show decode (wordR 0 rs 0 0 0 17) = .ok (.mthi rs)
  unfold decode; rw [opOf_wordR]
  show decodeSpecial _ = _
  unfold decodeSpecial; rw [functOf_wordR]
  show whenZero _ _ = _
  simp [whenZero]
theorem mtlo (rs : Reg) : Statement (.mtlo rs) := by
  unfold Statement
  show decode (wordR 0 rs 0 0 0 19) = .ok (.mtlo rs)
  unfold decode; rw [opOf_wordR]
  show decodeSpecial _ = _
  unfold decodeSpecial; rw [functOf_wordR]
  show whenZero _ _ = _
  simp [whenZero]
theorem madd (rs : Reg) (rt : Reg) : Statement (.madd rs rt) := by
  unfold Statement
  show decode (wordR 28 rs rt 0 0 0) = .ok (.madd rs rt)
  unfold decode; rw [opOf_wordR]
  show decodeSpecial2 _ = _
  unfold decodeSpecial2; rw [functOf_wordR]
  show whenZero _ _ = _
  simp [whenZero]
theorem maddu (rs : Reg) (rt : Reg) : Statement (.maddu rs rt) := by
  unfold Statement
  show decode (wordR 28 rs rt 0 0 1) = .ok (.maddu rs rt)
  unfold decode; rw [opOf_wordR]
  show decodeSpecial2 _ = _
  unfold decodeSpecial2; rw [functOf_wordR]
  show whenZero _ _ = _
  simp [whenZero]
theorem msub (rs : Reg) (rt : Reg) : Statement (.msub rs rt) := by
  unfold Statement
  show decode (wordR 28 rs rt 0 0 4) = .ok (.msub rs rt)
  unfold decode; rw [opOf_wordR]
  show decodeSpecial2 _ = _
  unfold decodeSpecial2; rw [functOf_wordR]
  show whenZero _ _ = _
  simp [whenZero]
theorem msubu (rs : Reg) (rt : Reg) : Statement (.msubu rs rt) := by
  unfold Statement
  show decode (wordR 28 rs rt 0 0 5) = .ok (.msubu rs rt)
  unfold decode; rw [opOf_wordR]
  show decodeSpecial2 _ = _
  unfold decodeSpecial2; rw [functOf_wordR]
  show whenZero _ _ = _
  simp [whenZero]
theorem mul (rs : Reg) (rt : Reg) (rd : Reg) : Statement (.mul rs rt rd) := by
  unfold Statement
  show decode (wordR 28 rs rt rd 0 2) = .ok (.mul rs rt rd)
  unfold decode; rw [opOf_wordR]
  show decodeSpecial2 _ = _
  unfold decodeSpecial2; rw [functOf_wordR]
  show whenZero _ _ = _
  simp [whenZero]
theorem clz (rs : Reg) (rt : Reg) (rd : Reg) : Statement (.clz rs rt rd) := by
  unfold Statement
  show decode (wordR 28 rs rt rd 0 32) = .ok (.clz rs rt rd)
  unfold decode; rw [opOf_wordR]
  show decodeSpecial2 _ = _
  unfold decodeSpecial2; rw [functOf_wordR]
  show whenZero _ _ = _
  simp [whenZero]
theorem clo (rs : Reg) (rt : Reg) (rd : Reg) : Statement (.clo rs rt rd) := by
  unfold Statement
  show decode (wordR 28 rs rt rd 0 33) = .ok (.clo rs rt rd)
  unfold decode; rw [opOf_wordR]
  show decodeSpecial2 _ = _
  unfold decodeSpecial2; rw [functOf_wordR]
  show whenZero _ _ = _
  simp [whenZero]
theorem jr (rs : Reg) : Statement (.jr rs) := by
  unfold Statement
  show decode (wordR 0 rs 0 0 0 8) = .ok (.jr rs)
  unfold decode; rw [opOf_wordR]
  show decodeSpecial _ = _
  unfold decodeSpecial; rw [functOf_wordR]
  show whenZero _ _ = _
  simp [whenZero]
theorem jalr (rs : Reg) (rd : Reg) : Statement (.jalr rs rd) := by
  unfold Statement
  show decode (wordR 0 rs 0 rd 0 9) = .ok (.jalr rs rd)
  unfold decode; rw [opOf_wordR]
  show decodeSpecial _ = _
  unfold decodeSpecial; rw [functOf_wordR]
  show whenZero _ _ = _
  simp [whenZero]
theorem syscall (code : BitVec 20) : Statement (.syscall code) := by
  unfold Statement
  show decode (wordCode20 code 12) = .ok (.syscall code)
  unfold decode; rw [opOf_wordCode20]
  show decodeSpecial _ = _
  unfold decodeSpecial; rw [functOf_wordCode20]
  show Except.ok _ = _
  simp
theorem brk (code : BitVec 20) : Statement (.brk code) := by
  unfold Statement
  show decode (wordCode20 code 13) = .ok (.brk code)
  unfold decode; rw [opOf_wordCode20]
  show decodeSpecial _ = _
  unfold decodeSpecial; rw [functOf_wordCode20]
  show Except.ok _ = _
  simp
theorem sync (stype : BitVec 5) : Statement (.sync stype) := by
  unfold Statement
  show decode (wordR 0 0 0 0 stype 15) = .ok (.sync stype)
  unfold decode; rw [opOf_wordR]
  show decodeSpecial _ = _
  unfold decodeSpecial; rw [functOf_wordR]
  show whenZero _ _ = _
  simp [whenZero]
theorem tge (rs : Reg) (rt : Reg) (code : BitVec 10) : Statement (.tge rs rt code) := by
  unfold Statement
  show decode (wordCode10 rs rt code 48) = .ok (.tge rs rt code)
  unfold decode; rw [opOf_wordCode10]
  show decodeSpecial _ = _
  unfold decodeSpecial; rw [functOf_wordCode10]
  show Except.ok _ = _
  simp
theorem tgeu (rs : Reg) (rt : Reg) (code : BitVec 10) : Statement (.tgeu rs rt code) := by
  unfold Statement
  show decode (wordCode10 rs rt code 49) = .ok (.tgeu rs rt code)
  unfold decode; rw [opOf_wordCode10]
  show decodeSpecial _ = _
  unfold decodeSpecial; rw [functOf_wordCode10]
  show Except.ok _ = _
  simp
theorem tlt (rs : Reg) (rt : Reg) (code : BitVec 10) : Statement (.tlt rs rt code) := by
  unfold Statement
  show decode (wordCode10 rs rt code 50) = .ok (.tlt rs rt code)
  unfold decode; rw [opOf_wordCode10]
  show decodeSpecial _ = _
  unfold decodeSpecial; rw [functOf_wordCode10]
  show Except.ok _ = _
  simp
theorem tltu (rs : Reg) (rt : Reg) (code : BitVec 10) : Statement (.tltu rs rt code) := by
  unfold Statement
  show decode (wordCode10 rs rt code 51) = .ok (.tltu rs rt code)
  unfold decode; rw [opOf_wordCode10]
  show decodeSpecial _ = _
  unfold decodeSpecial; rw [functOf_wordCode10]
  show Except.ok _ = _
  simp
theorem teq (rs : Reg) (rt : Reg) (code : BitVec 10) : Statement (.teq rs rt code) := by
  unfold Statement
  show decode (wordCode10 rs rt code 52) = .ok (.teq rs rt code)
  unfold decode; rw [opOf_wordCode10]
  show decodeSpecial _ = _
  unfold decodeSpecial; rw [functOf_wordCode10]
  show Except.ok _ = _
  simp
theorem tne (rs : Reg) (rt : Reg) (code : BitVec 10) : Statement (.tne rs rt code) := by
  unfold Statement
  show decode (wordCode10 rs rt code 54) = .ok (.tne rs rt code)
  unfold decode; rw [opOf_wordCode10]
  show decodeSpecial _ = _
  unfold decodeSpecial; rw [functOf_wordCode10]
  show Except.ok _ = _
  simp
theorem addi (rs : Reg) (rt : Reg) (imm : Half) : Statement (.addi rs rt imm) := by
  unfold Statement
  show decode (wordI 8 rs rt imm) = .ok (.addi rs rt imm)
  unfold decode; rw [opOf_wordI]
  show Except.ok _ = _
  simp
theorem addiu (rs : Reg) (rt : Reg) (imm : Half) : Statement (.addiu rs rt imm) := by
  unfold Statement
  show decode (wordI 9 rs rt imm) = .ok (.addiu rs rt imm)
  unfold decode; rw [opOf_wordI]
  show Except.ok _ = _
  simp
theorem slti (rs : Reg) (rt : Reg) (imm : Half) : Statement (.slti rs rt imm) := by
  unfold Statement
  show decode (wordI 10 rs rt imm) = .ok (.slti rs rt imm)
  unfold decode; rw [opOf_wordI]
  show Except.ok _ = _
  simp
theorem sltiu (rs : Reg) (rt : Reg) (imm : Half) : Statement (.sltiu rs rt imm) := by
  unfold Statement
  show decode (wordI 11 rs rt imm) = .ok (.sltiu rs rt imm)
  unfold decode; rw [opOf_wordI]
  show Except.ok _ = _
  simp
theorem andi (rs : Reg) (rt : Reg) (imm : Half) : Statement (.andi rs rt imm) := by
  unfold Statement
  show decode (wordI 12 rs rt imm) = .ok (.andi rs rt imm)
  unfold decode; rw [opOf_wordI]
  show Except.ok _ = _
  simp
theorem ori (rs : Reg) (rt : Reg) (imm : Half) : Statement (.ori rs rt imm) := by
  unfold Statement
  show decode (wordI 13 rs rt imm) = .ok (.ori rs rt imm)
  unfold decode; rw [opOf_wordI]
  show Except.ok _ = _
  simp
theorem xori (rs : Reg) (rt : Reg) (imm : Half) : Statement (.xori rs rt imm) := by
  unfold Statement
  show decode (wordI 14 rs rt imm) = .ok (.xori rs rt imm)
  unfold decode; rw [opOf_wordI]
  show Except.ok _ = _
  simp
theorem lui (rt : Reg) (imm : Half) : Statement (.lui rt imm) := by
  unfold Statement
  show decode (wordI 15 0 rt imm) = .ok (.lui rt imm)
  unfold decode; rw [opOf_wordI]
  show whenZero _ _ = _
  simp [whenZero]
theorem lb (base : Reg) (rt : Reg) (off : Half) : Statement (.lb base rt off) := by
  unfold Statement
  show decode (wordI 32 base rt off) = .ok (.lb base rt off)
  unfold decode; rw [opOf_wordI]
  show Except.ok _ = _
  simp
theorem lh (base : Reg) (rt : Reg) (off : Half) : Statement (.lh base rt off) := by
  unfold Statement
  show decode (wordI 33 base rt off) = .ok (.lh base rt off)
  unfold decode; rw [opOf_wordI]
  show Except.ok _ = _
  simp
theorem lwl (base : Reg) (rt : Reg) (off : Half) : Statement (.lwl base rt off) := by
  unfold Statement
  show decode (wordI 34 base rt off) = .ok (.lwl base rt off)
  unfold decode; rw [opOf_wordI]
  show Except.ok _ = _
  simp
theorem lw (base : Reg) (rt : Reg) (off : Half) : Statement (.lw base rt off) := by
  unfold Statement
  show decode (wordI 35 base rt off) = .ok (.lw base rt off)
  unfold decode; rw [opOf_wordI]
  show Except.ok _ = _
  simp
theorem lbu (base : Reg) (rt : Reg) (off : Half) : Statement (.lbu base rt off) := by
  unfold Statement
  show decode (wordI 36 base rt off) = .ok (.lbu base rt off)
  unfold decode; rw [opOf_wordI]
  show Except.ok _ = _
  simp
theorem lhu (base : Reg) (rt : Reg) (off : Half) : Statement (.lhu base rt off) := by
  unfold Statement
  show decode (wordI 37 base rt off) = .ok (.lhu base rt off)
  unfold decode; rw [opOf_wordI]
  show Except.ok _ = _
  simp
theorem lwr (base : Reg) (rt : Reg) (off : Half) : Statement (.lwr base rt off) := by
  unfold Statement
  show decode (wordI 38 base rt off) = .ok (.lwr base rt off)
  unfold decode; rw [opOf_wordI]
  show Except.ok _ = _
  simp
theorem sb (base : Reg) (rt : Reg) (off : Half) : Statement (.sb base rt off) := by
  unfold Statement
  show decode (wordI 40 base rt off) = .ok (.sb base rt off)
  unfold decode; rw [opOf_wordI]
  show Except.ok _ = _
  simp
theorem sh (base : Reg) (rt : Reg) (off : Half) : Statement (.sh base rt off) := by
  unfold Statement
  show decode (wordI 41 base rt off) = .ok (.sh base rt off)
  unfold decode; rw [opOf_wordI]
  show Except.ok _ = _
  simp
theorem swl (base : Reg) (rt : Reg) (off : Half) : Statement (.swl base rt off) := by
  unfold Statement
  show decode (wordI 42 base rt off) = .ok (.swl base rt off)
  unfold decode; rw [opOf_wordI]
  show Except.ok _ = _
  simp
theorem sw (base : Reg) (rt : Reg) (off : Half) : Statement (.sw base rt off) := by
  unfold Statement
  show decode (wordI 43 base rt off) = .ok (.sw base rt off)
  unfold decode; rw [opOf_wordI]
  show Except.ok _ = _
  simp
theorem swr (base : Reg) (rt : Reg) (off : Half) : Statement (.swr base rt off) := by
  unfold Statement
  show decode (wordI 46 base rt off) = .ok (.swr base rt off)
  unfold decode; rw [opOf_wordI]
  show Except.ok _ = _
  simp
theorem ll (base : Reg) (rt : Reg) (off : Half) : Statement (.ll base rt off) := by
  unfold Statement
  show decode (wordI 48 base rt off) = .ok (.ll base rt off)
  unfold decode; rw [opOf_wordI]
  show Except.ok _ = _
  simp
theorem sc (base : Reg) (rt : Reg) (off : Half) : Statement (.sc base rt off) := by
  unfold Statement
  show decode (wordI 56 base rt off) = .ok (.sc base rt off)
  unfold decode; rw [opOf_wordI]
  show Except.ok _ = _
  simp
theorem beq (rs : Reg) (rt : Reg) (off : Half) : Statement (.beq rs rt off) := by
  unfold Statement
  show decode (wordI 4 rs rt off) = .ok (.beq rs rt off)
  unfold decode; rw [opOf_wordI]
  show Except.ok _ = _
  simp
theorem bne (rs : Reg) (rt : Reg) (off : Half) : Statement (.bne rs rt off) := by
  unfold Statement
  show decode (wordI 5 rs rt off) = .ok (.bne rs rt off)
  unfold decode; rw [opOf_wordI]
  show Except.ok _ = _
  simp
theorem beql (rs : Reg) (rt : Reg) (off : Half) : Statement (.beql rs rt off) := by
  unfold Statement
  show decode (wordI 20 rs rt off) = .ok (.beql rs rt off)
  unfold decode; rw [opOf_wordI]
  show Except.ok _ = _
  simp
theorem bnel (rs : Reg) (rt : Reg) (off : Half) : Statement (.bnel rs rt off) := by
  unfold Statement
  show decode (wordI 21 rs rt off) = .ok (.bnel rs rt off)
  unfold decode; rw [opOf_wordI]
  show Except.ok _ = _
  simp
theorem blez (rs : Reg) (off : Half) : Statement (.blez rs off) := by
  unfold Statement
  show decode (wordI 6 rs 0 off) = .ok (.blez rs off)
  unfold decode; rw [opOf_wordI]
  show whenZero _ _ = _
  simp [whenZero]
theorem bgtz (rs : Reg) (off : Half) : Statement (.bgtz rs off) := by
  unfold Statement
  show decode (wordI 7 rs 0 off) = .ok (.bgtz rs off)
  unfold decode; rw [opOf_wordI]
  show whenZero _ _ = _
  simp [whenZero]
theorem blezl (rs : Reg) (off : Half) : Statement (.blezl rs off) := by
  unfold Statement
  show decode (wordI 22 rs 0 off) = .ok (.blezl rs off)
  unfold decode; rw [opOf_wordI]
  show whenZero _ _ = _
  simp [whenZero]
theorem bgtzl (rs : Reg) (off : Half) : Statement (.bgtzl rs off) := by
  unfold Statement
  show decode (wordI 23 rs 0 off) = .ok (.bgtzl rs off)
  unfold decode; rw [opOf_wordI]
  show whenZero _ _ = _
  simp [whenZero]
theorem bltz (rs : Reg) (off : Half) : Statement (.bltz rs off) := by
  unfold Statement
  show decode (wordI 1 rs 0 off) = .ok (.bltz rs off)
  unfold decode; rw [opOf_wordI]
  show decodeRegimm _ = _
  unfold decodeRegimm; rw [rtOf_wordI]
  show Except.ok _ = _
  simp
theorem bgez (rs : Reg) (off : Half) : Statement (.bgez rs off) := by
  unfold Statement
  show decode (wordI 1 rs 1 off) = .ok (.bgez rs off)
  unfold decode; rw [opOf_wordI]
  show decodeRegimm _ = _
  unfold decodeRegimm; rw [rtOf_wordI]
  show Except.ok _ = _
  simp
theorem bltzl (rs : Reg) (off : Half) : Statement (.bltzl rs off) := by
  unfold Statement
  show decode (wordI 1 rs 2 off) = .ok (.bltzl rs off)
  unfold decode; rw [opOf_wordI]
  show decodeRegimm _ = _
  unfold decodeRegimm; rw [rtOf_wordI]
  show Except.ok _ = _
  simp
theorem bgezl (rs : Reg) (off : Half) : Statement (.bgezl rs off) := by
  unfold Statement
  show decode (wordI 1 rs 3 off) = .ok (.bgezl rs off)
  unfold decode; rw [opOf_wordI]
  show decodeRegimm _ = _
  unfold decodeRegimm; rw [rtOf_wordI]
  show Except.ok _ = _
  simp
theorem bltzal (rs : Reg) (off : Half) : Statement (.bltzal rs off) := by
  unfold Statement
  show decode (wordI 1 rs 16 off) = .ok (.bltzal rs off)
  unfold decode; rw [opOf_wordI]
  show decodeRegimm _ = _
  unfold decodeRegimm; rw [rtOf_wordI]
  show Except.ok _ = _
  simp
theorem bgezal (rs : Reg) (off : Half) : Statement (.bgezal rs off) := by
  unfold Statement
  show decode (wordI 1 rs 17 off) = .ok (.bgezal rs off)
  unfold decode; rw [opOf_wordI]
  show decodeRegimm _ = _
  unfold decodeRegimm; rw [rtOf_wordI]
  show Except.ok _ = _
  simp
theorem bltzall (rs : Reg) (off : Half) : Statement (.bltzall rs off) := by
  unfold Statement
  show decode (wordI 1 rs 18 off) = .ok (.bltzall rs off)
  unfold decode; rw [opOf_wordI]
  show decodeRegimm _ = _
  unfold decodeRegimm; rw [rtOf_wordI]
  show Except.ok _ = _
  simp
theorem bgezall (rs : Reg) (off : Half) : Statement (.bgezall rs off) := by
  unfold Statement
  show decode (wordI 1 rs 19 off) = .ok (.bgezall rs off)
  unfold decode; rw [opOf_wordI]
  show decodeRegimm _ = _
  unfold decodeRegimm; rw [rtOf_wordI]
  show Except.ok _ = _
  simp
theorem tgei (rs : Reg) (imm : Half) : Statement (.tgei rs imm) := by
  unfold Statement
  show decode (wordI 1 rs 8 imm) = .ok (.tgei rs imm)
  unfold decode; rw [opOf_wordI]
  show decodeRegimm _ = _
  unfold decodeRegimm; rw [rtOf_wordI]
  show Except.ok _ = _
  simp
theorem tgeiu (rs : Reg) (imm : Half) : Statement (.tgeiu rs imm) := by
  unfold Statement
  show decode (wordI 1 rs 9 imm) = .ok (.tgeiu rs imm)
  unfold decode; rw [opOf_wordI]
  show decodeRegimm _ = _
  unfold decodeRegimm; rw [rtOf_wordI]
  show Except.ok _ = _
  simp
theorem tlti (rs : Reg) (imm : Half) : Statement (.tlti rs imm) := by
  unfold Statement
  show decode (wordI 1 rs 10 imm) = .ok (.tlti rs imm)
  unfold decode; rw [opOf_wordI]
  show decodeRegimm _ = _
  unfold decodeRegimm; rw [rtOf_wordI]
  show Except.ok _ = _
  simp
theorem tltiu (rs : Reg) (imm : Half) : Statement (.tltiu rs imm) := by
  unfold Statement
  show decode (wordI 1 rs 11 imm) = .ok (.tltiu rs imm)
  unfold decode; rw [opOf_wordI]
  show decodeRegimm _ = _
  unfold decodeRegimm; rw [rtOf_wordI]
  show Except.ok _ = _
  simp
theorem teqi (rs : Reg) (imm : Half) : Statement (.teqi rs imm) := by
  unfold Statement
  show decode (wordI 1 rs 12 imm) = .ok (.teqi rs imm)
  unfold decode; rw [opOf_wordI]
  show decodeRegimm _ = _
  unfold decodeRegimm; rw [rtOf_wordI]
  show Except.ok _ = _
  simp
theorem tnei (rs : Reg) (imm : Half) : Statement (.tnei rs imm) := by
  unfold Statement
  show decode (wordI 1 rs 14 imm) = .ok (.tnei rs imm)
  unfold decode; rw [opOf_wordI]
  show decodeRegimm _ = _
  unfold decodeRegimm; rw [rtOf_wordI]
  show Except.ok _ = _
  simp
theorem j (idx : BitVec 26) : Statement (.j idx) := by
  unfold Statement
  show decode (wordJ 2 idx) = .ok (.j idx)
  unfold decode; rw [opOf_wordJ]
  show Except.ok _ = _
  simp
theorem jal (idx : BitVec 26) : Statement (.jal idx) := by
  unfold Statement
  show decode (wordJ 3 idx) = .ok (.jal idx)
  unfold decode; rw [opOf_wordJ]
  show Except.ok _ = _
  simp
theorem mfc0 (rt : Reg) (rd : Reg) : Statement (.mfc0 rt rd) := by
  unfold Statement
  show decode (wordR 16 0 rt rd 0 0) = .ok (.mfc0 rt rd)
  unfold decode; rw [opOf_wordR]
  show decodeCop0 _ = _
  unfold decodeCop0; rw [if_neg (by rw [wordR_co]; decide), rsOf_wordR]
  show whenZero _ _ = _
  rw [wordR_low]
  simp [whenZero]
theorem mtc0 (rt : Reg) (rd : Reg) : Statement (.mtc0 rt rd) := by
  unfold Statement
  show decode (wordR 16 4 rt rd 0 0) = .ok (.mtc0 rt rd)
  unfold decode; rw [opOf_wordR]
  show decodeCop0 _ = _
  unfold decodeCop0; rw [if_neg (by rw [wordR_co]; decide), rsOf_wordR]
  show whenZero _ _ = _
  rw [wordR_low]
  simp [whenZero]
theorem tlbr : Statement (.tlbr) := by
  unfold Statement
  show decode (wordCo 0 1) = .ok (.tlbr)
  unfold decode; rw [opOf_wordCo]
  show decodeCop0 _ = _
  unfold decodeCop0; rw [if_pos (wordCo_co ..)]
  unfold decodeCo; rw [functOf_wordCo]
  show whenZero _ _ = _
  simp [whenZero]
theorem tlbwi : Statement (.tlbwi) := by
  unfold Statement
  show decode (wordCo 0 2) = .ok (.tlbwi)
  unfold decode; rw [opOf_wordCo]
  show decodeCop0 _ = _
  unfold decodeCop0; rw [if_pos (wordCo_co ..)]
  unfold decodeCo; rw [functOf_wordCo]
  show whenZero _ _ = _
  simp [whenZero]
theorem tlbwr : Statement (.tlbwr) := by
  unfold Statement
  show decode (wordCo 0 6) = .ok (.tlbwr)
  unfold decode; rw [opOf_wordCo]
  show decodeCop0 _ = _
  unfold decodeCop0; rw [if_pos (wordCo_co ..)]
  unfold decodeCo; rw [functOf_wordCo]
  show whenZero _ _ = _
  simp [whenZero]
theorem tlbp : Statement (.tlbp) := by
  unfold Statement
  show decode (wordCo 0 8) = .ok (.tlbp)
  unfold decode; rw [opOf_wordCo]
  show decodeCop0 _ = _
  unfold decodeCop0; rw [if_pos (wordCo_co ..)]
  unfold decodeCo; rw [functOf_wordCo]
  show whenZero _ _ = _
  simp [whenZero]
theorem eret : Statement (.eret) := by
  unfold Statement
  show decode (wordCo 0 24) = .ok (.eret)
  unfold decode; rw [opOf_wordCo]
  show decodeCop0 _ = _
  unfold decodeCop0; rw [if_pos (wordCo_co ..)]
  unfold decodeCo; rw [functOf_wordCo]
  show whenZero _ _ = _
  simp [whenZero]
theorem wait (code : BitVec 19) : Statement (.wait code) := by
  unfold Statement
  show decode (wordCo code 32) = .ok (.wait code)
  unfold decode; rw [opOf_wordCo]
  show decodeCop0 _ = _
  unfold decodeCop0; rw [if_pos (wordCo_co ..)]
  unfold decodeCo; rw [functOf_wordCo]
  show Except.ok _ = _
  simp
theorem lwc1 (base : Reg) (ft : Reg) (off : Half) : Statement (.lwc1 base ft off) := by
  unfold Statement
  show decode (wordI 49 base ft off) = .ok (.lwc1 base ft off)
  unfold decode; rw [opOf_wordI]
  show Except.ok _ = _
  simp
theorem ldc1 (base : Reg) (ft : Reg) (off : Half) : Statement (.ldc1 base ft off) := by
  unfold Statement
  show decode (wordI 53 base ft off) = .ok (.ldc1 base ft off)
  unfold decode; rw [opOf_wordI]
  show Except.ok _ = _
  simp
theorem swc1 (base : Reg) (ft : Reg) (off : Half) : Statement (.swc1 base ft off) := by
  unfold Statement
  show decode (wordI 57 base ft off) = .ok (.swc1 base ft off)
  unfold decode; rw [opOf_wordI]
  show Except.ok _ = _
  simp
theorem sdc1 (base : Reg) (ft : Reg) (off : Half) : Statement (.sdc1 base ft off) := by
  unfold Statement
  show decode (wordI 61 base ft off) = .ok (.sdc1 base ft off)
  unfold decode; rw [opOf_wordI]
  show Except.ok _ = _
  simp
theorem mfc1 (rt : Reg) (fs : Reg) : Statement (.mfc1 rt fs) := by
  unfold Statement
  show decode (wordR 17 0 rt fs 0 0) = .ok (.mfc1 rt fs)
  unfold decode; rw [opOf_wordR]
  show decodeCop1 _ = _
  unfold decodeCop1; rw [rsOf_wordR]
  show whenZero _ _ = _
  rw [wordR_low]
  simp [whenZero]
theorem cfc1 (rt : Reg) (fs : Reg) : Statement (.cfc1 rt fs) := by
  unfold Statement
  show decode (wordR 17 2 rt fs 0 0) = .ok (.cfc1 rt fs)
  unfold decode; rw [opOf_wordR]
  show decodeCop1 _ = _
  unfold decodeCop1; rw [rsOf_wordR]
  show whenZero _ _ = _
  rw [wordR_low]
  simp [whenZero]
theorem mtc1 (rt : Reg) (fs : Reg) : Statement (.mtc1 rt fs) := by
  unfold Statement
  show decode (wordR 17 4 rt fs 0 0) = .ok (.mtc1 rt fs)
  unfold decode; rw [opOf_wordR]
  show decodeCop1 _ = _
  unfold decodeCop1; rw [rsOf_wordR]
  show whenZero _ _ = _
  rw [wordR_low]
  simp [whenZero]
theorem ctc1 (rt : Reg) (fs : Reg) : Statement (.ctc1 rt fs) := by
  unfold Statement
  show decode (wordR 17 6 rt fs 0 0) = .ok (.ctc1 rt fs)
  unfold decode; rw [opOf_wordR]
  show decodeCop1 _ = _
  unfold decodeCop1; rw [rsOf_wordR]
  show whenZero _ _ = _
  rw [wordR_low]
  simp [whenZero]
theorem bc1f (cc : Cc) (off : Half) : Statement (.bc1f cc off) := by
  unfold Statement
  show decode (wordI 17 8 (ccField cc 0) off) = .ok (.bc1f cc off)
  unfold decode; rw [opOf_wordI]
  show decodeCop1 _ = _
  unfold decodeCop1; rw [rsOf_wordI]
  show decodeBc1 _ = _
  unfold decodeBc1; rw [rtOf_wordI, selOf_ccField]
  show Except.ok _ = _
  simp
theorem bc1fl (cc : Cc) (off : Half) : Statement (.bc1fl cc off) := by
  unfold Statement
  show decode (wordI 17 8 (ccField cc 2) off) = .ok (.bc1fl cc off)
  unfold decode; rw [opOf_wordI]
  show decodeCop1 _ = _
  unfold decodeCop1; rw [rsOf_wordI]
  show decodeBc1 _ = _
  unfold decodeBc1; rw [rtOf_wordI, selOf_ccField]
  show Except.ok _ = _
  simp
theorem bc1t (cc : Cc) (off : Half) : Statement (.bc1t cc off) := by
  unfold Statement
  show decode (wordI 17 8 (ccField cc 1) off) = .ok (.bc1t cc off)
  unfold decode; rw [opOf_wordI]
  show decodeCop1 _ = _
  unfold decodeCop1; rw [rsOf_wordI]
  show decodeBc1 _ = _
  unfold decodeBc1; rw [rtOf_wordI, selOf_ccField]
  show Except.ok _ = _
  simp
theorem bc1tl (cc : Cc) (off : Half) : Statement (.bc1tl cc off) := by
  unfold Statement
  show decode (wordI 17 8 (ccField cc 3) off) = .ok (.bc1tl cc off)
  unfold decode; rw [opOf_wordI]
  show decodeCop1 _ = _
  unfold decodeCop1; rw [rsOf_wordI]
  show decodeBc1 _ = _
  unfold decodeBc1; rw [rtOf_wordI, selOf_ccField]
  show Except.ok _ = _
  simp
theorem addS (ft : Reg) (fs : Reg) (fd : Reg) : Statement (.addS ft fs fd) := by
  unfold Statement
  show decode (wordR 17 16 ft fs fd 0) = .ok (.addS ft fs fd)
  unfold decode; rw [opOf_wordR]
  show decodeCop1 _ = _
  unfold decodeCop1; rw [rsOf_wordR]
  show decodeFmtS _ = _
  unfold decodeFmtS; rw [functOf_wordR]
  show Except.ok _ = _
  simp
theorem addD (ft : Reg) (fs : Reg) (fd : Reg) : Statement (.addD ft fs fd) := by
  unfold Statement
  show decode (wordR 17 17 ft fs fd 0) = .ok (.addD ft fs fd)
  unfold decode; rw [opOf_wordR]
  show decodeCop1 _ = _
  unfold decodeCop1; rw [rsOf_wordR]
  show decodeFmtD _ = _
  unfold decodeFmtD; rw [functOf_wordR]
  show Except.ok _ = _
  simp
theorem subS (ft : Reg) (fs : Reg) (fd : Reg) : Statement (.subS ft fs fd) := by
  unfold Statement
  show decode (wordR 17 16 ft fs fd 1) = .ok (.subS ft fs fd)
  unfold decode; rw [opOf_wordR]
  show decodeCop1 _ = _
  unfold decodeCop1; rw [rsOf_wordR]
  show decodeFmtS _ = _
  unfold decodeFmtS; rw [functOf_wordR]
  show Except.ok _ = _
  simp
theorem subD (ft : Reg) (fs : Reg) (fd : Reg) : Statement (.subD ft fs fd) := by
  unfold Statement
  show decode (wordR 17 17 ft fs fd 1) = .ok (.subD ft fs fd)
  unfold decode; rw [opOf_wordR]
  show decodeCop1 _ = _
  unfold decodeCop1; rw [rsOf_wordR]
  show decodeFmtD _ = _
  unfold decodeFmtD; rw [functOf_wordR]
  show Except.ok _ = _
  simp
theorem mulS (ft : Reg) (fs : Reg) (fd : Reg) : Statement (.mulS ft fs fd) := by
  unfold Statement
  show decode (wordR 17 16 ft fs fd 2) = .ok (.mulS ft fs fd)
  unfold decode; rw [opOf_wordR]
  show decodeCop1 _ = _
  unfold decodeCop1; rw [rsOf_wordR]
  show decodeFmtS _ = _
  unfold decodeFmtS; rw [functOf_wordR]
  show Except.ok _ = _
  simp
theorem mulD (ft : Reg) (fs : Reg) (fd : Reg) : Statement (.mulD ft fs fd) := by
  unfold Statement
  show decode (wordR 17 17 ft fs fd 2) = .ok (.mulD ft fs fd)
  unfold decode; rw [opOf_wordR]
  show decodeCop1 _ = _
  unfold decodeCop1; rw [rsOf_wordR]
  show decodeFmtD _ = _
  unfold decodeFmtD; rw [functOf_wordR]
  show Except.ok _ = _
  simp
theorem divS (ft : Reg) (fs : Reg) (fd : Reg) : Statement (.divS ft fs fd) := by
  unfold Statement
  show decode (wordR 17 16 ft fs fd 3) = .ok (.divS ft fs fd)
  unfold decode; rw [opOf_wordR]
  show decodeCop1 _ = _
  unfold decodeCop1; rw [rsOf_wordR]
  show decodeFmtS _ = _
  unfold decodeFmtS; rw [functOf_wordR]
  show Except.ok _ = _
  simp
theorem divD (ft : Reg) (fs : Reg) (fd : Reg) : Statement (.divD ft fs fd) := by
  unfold Statement
  show decode (wordR 17 17 ft fs fd 3) = .ok (.divD ft fs fd)
  unfold decode; rw [opOf_wordR]
  show decodeCop1 _ = _
  unfold decodeCop1; rw [rsOf_wordR]
  show decodeFmtD _ = _
  unfold decodeFmtD; rw [functOf_wordR]
  show Except.ok _ = _
  simp
theorem sqrtS (fs : Reg) (fd : Reg) : Statement (.sqrtS fs fd) := by
  unfold Statement
  show decode (wordR 17 16 0 fs fd 4) = .ok (.sqrtS fs fd)
  unfold decode; rw [opOf_wordR]
  show decodeCop1 _ = _
  unfold decodeCop1; rw [rsOf_wordR]
  show decodeFmtS _ = _
  unfold decodeFmtS; rw [functOf_wordR]
  show whenZero _ _ = _
  simp [whenZero]
theorem sqrtD (fs : Reg) (fd : Reg) : Statement (.sqrtD fs fd) := by
  unfold Statement
  show decode (wordR 17 17 0 fs fd 4) = .ok (.sqrtD fs fd)
  unfold decode; rw [opOf_wordR]
  show decodeCop1 _ = _
  unfold decodeCop1; rw [rsOf_wordR]
  show decodeFmtD _ = _
  unfold decodeFmtD; rw [functOf_wordR]
  show whenZero _ _ = _
  simp [whenZero]
theorem absS (fs : Reg) (fd : Reg) : Statement (.absS fs fd) := by
  unfold Statement
  show decode (wordR 17 16 0 fs fd 5) = .ok (.absS fs fd)
  unfold decode; rw [opOf_wordR]
  show decodeCop1 _ = _
  unfold decodeCop1; rw [rsOf_wordR]
  show decodeFmtS _ = _
  unfold decodeFmtS; rw [functOf_wordR]
  show whenZero _ _ = _
  simp [whenZero]
theorem absD (fs : Reg) (fd : Reg) : Statement (.absD fs fd) := by
  unfold Statement
  show decode (wordR 17 17 0 fs fd 5) = .ok (.absD fs fd)
  unfold decode; rw [opOf_wordR]
  show decodeCop1 _ = _
  unfold decodeCop1; rw [rsOf_wordR]
  show decodeFmtD _ = _
  unfold decodeFmtD; rw [functOf_wordR]
  show whenZero _ _ = _
  simp [whenZero]
theorem movS (fs : Reg) (fd : Reg) : Statement (.movS fs fd) := by
  unfold Statement
  show decode (wordR 17 16 0 fs fd 6) = .ok (.movS fs fd)
  unfold decode; rw [opOf_wordR]
  show decodeCop1 _ = _
  unfold decodeCop1; rw [rsOf_wordR]
  show decodeFmtS _ = _
  unfold decodeFmtS; rw [functOf_wordR]
  show whenZero _ _ = _
  simp [whenZero]
theorem movD (fs : Reg) (fd : Reg) : Statement (.movD fs fd) := by
  unfold Statement
  show decode (wordR 17 17 0 fs fd 6) = .ok (.movD fs fd)
  unfold decode; rw [opOf_wordR]
  show decodeCop1 _ = _
  unfold decodeCop1; rw [rsOf_wordR]
  show decodeFmtD _ = _
  unfold decodeFmtD; rw [functOf_wordR]
  show whenZero _ _ = _
  simp [whenZero]
theorem negS (fs : Reg) (fd : Reg) : Statement (.negS fs fd) := by
  unfold Statement
  show decode (wordR 17 16 0 fs fd 7) = .ok (.negS fs fd)
  unfold decode; rw [opOf_wordR]
  show decodeCop1 _ = _
  unfold decodeCop1; rw [rsOf_wordR]
  show decodeFmtS _ = _
  unfold decodeFmtS; rw [functOf_wordR]
  show whenZero _ _ = _
  simp [whenZero]
theorem negD (fs : Reg) (fd : Reg) : Statement (.negD fs fd) := by
  unfold Statement
  show decode (wordR 17 17 0 fs fd 7) = .ok (.negD fs fd)
  unfold decode; rw [opOf_wordR]
  show decodeCop1 _ = _
  unfold decodeCop1; rw [rsOf_wordR]
  show decodeFmtD _ = _
  unfold decodeFmtD; rw [functOf_wordR]
  show whenZero _ _ = _
  simp [whenZero]
theorem roundWS (fs : Reg) (fd : Reg) : Statement (.roundWS fs fd) := by
  unfold Statement
  show decode (wordR 17 16 0 fs fd 12) = .ok (.roundWS fs fd)
  unfold decode; rw [opOf_wordR]
  show decodeCop1 _ = _
  unfold decodeCop1; rw [rsOf_wordR]
  show decodeFmtS _ = _
  unfold decodeFmtS; rw [functOf_wordR]
  show whenZero _ _ = _
  simp [whenZero]
theorem roundWD (fs : Reg) (fd : Reg) : Statement (.roundWD fs fd) := by
  unfold Statement
  show decode (wordR 17 17 0 fs fd 12) = .ok (.roundWD fs fd)
  unfold decode; rw [opOf_wordR]
  show decodeCop1 _ = _
  unfold decodeCop1; rw [rsOf_wordR]
  show decodeFmtD _ = _
  unfold decodeFmtD; rw [functOf_wordR]
  show whenZero _ _ = _
  simp [whenZero]
theorem truncWS (fs : Reg) (fd : Reg) : Statement (.truncWS fs fd) := by
  unfold Statement
  show decode (wordR 17 16 0 fs fd 13) = .ok (.truncWS fs fd)
  unfold decode; rw [opOf_wordR]
  show decodeCop1 _ = _
  unfold decodeCop1; rw [rsOf_wordR]
  show decodeFmtS _ = _
  unfold decodeFmtS; rw [functOf_wordR]
  show whenZero _ _ = _
  simp [whenZero]
theorem truncWD (fs : Reg) (fd : Reg) : Statement (.truncWD fs fd) := by
  unfold Statement
  show decode (wordR 17 17 0 fs fd 13) = .ok (.truncWD fs fd)
  unfold decode; rw [opOf_wordR]
  show decodeCop1 _ = _
  unfold decodeCop1; rw [rsOf_wordR]
  show decodeFmtD _ = _
  unfold decodeFmtD; rw [functOf_wordR]
  show whenZero _ _ = _
  simp [whenZero]
theorem ceilWS (fs : Reg) (fd : Reg) : Statement (.ceilWS fs fd) := by
  unfold Statement
  show decode (wordR 17 16 0 fs fd 14) = .ok (.ceilWS fs fd)
  unfold decode; rw [opOf_wordR]
  show decodeCop1 _ = _
  unfold decodeCop1; rw [rsOf_wordR]
  show decodeFmtS _ = _
  unfold decodeFmtS; rw [functOf_wordR]
  show whenZero _ _ = _
  simp [whenZero]
theorem ceilWD (fs : Reg) (fd : Reg) : Statement (.ceilWD fs fd) := by
  unfold Statement
  show decode (wordR 17 17 0 fs fd 14) = .ok (.ceilWD fs fd)
  unfold decode; rw [opOf_wordR]
  show decodeCop1 _ = _
  unfold decodeCop1; rw [rsOf_wordR]
  show decodeFmtD _ = _
  unfold decodeFmtD; rw [functOf_wordR]
  show whenZero _ _ = _
  simp [whenZero]
theorem floorWS (fs : Reg) (fd : Reg) : Statement (.floorWS fs fd) := by
  unfold Statement
  show decode (wordR 17 16 0 fs fd 15) = .ok (.floorWS fs fd)
  unfold decode; rw [opOf_wordR]
  show decodeCop1 _ = _
  unfold decodeCop1; rw [rsOf_wordR]
  show decodeFmtS _ = _
  unfold decodeFmtS; rw [functOf_wordR]
  show whenZero _ _ = _
  simp [whenZero]
theorem floorWD (fs : Reg) (fd : Reg) : Statement (.floorWD fs fd) := by
  unfold Statement
  show decode (wordR 17 17 0 fs fd 15) = .ok (.floorWD fs fd)
  unfold decode; rw [opOf_wordR]
  show decodeCop1 _ = _
  unfold decodeCop1; rw [rsOf_wordR]
  show decodeFmtD _ = _
  unfold decodeFmtD; rw [functOf_wordR]
  show whenZero _ _ = _
  simp [whenZero]
theorem cvtWS (fs : Reg) (fd : Reg) : Statement (.cvtWS fs fd) := by
  unfold Statement
  show decode (wordR 17 16 0 fs fd 36) = .ok (.cvtWS fs fd)
  unfold decode; rw [opOf_wordR]
  show decodeCop1 _ = _
  unfold decodeCop1; rw [rsOf_wordR]
  show decodeFmtS _ = _
  unfold decodeFmtS; rw [functOf_wordR]
  show whenZero _ _ = _
  simp [whenZero]
theorem cvtWD (fs : Reg) (fd : Reg) : Statement (.cvtWD fs fd) := by
  unfold Statement
  show decode (wordR 17 17 0 fs fd 36) = .ok (.cvtWD fs fd)
  unfold decode; rw [opOf_wordR]
  show decodeCop1 _ = _
  unfold decodeCop1; rw [rsOf_wordR]
  show decodeFmtD _ = _
  unfold decodeFmtD; rw [functOf_wordR]
  show whenZero _ _ = _
  simp [whenZero]
theorem cvtSD (fs : Reg) (fd : Reg) : Statement (.cvtSD fs fd) := by
  unfold Statement
  show decode (wordR 17 17 0 fs fd 32) = .ok (.cvtSD fs fd)
  unfold decode; rw [opOf_wordR]
  show decodeCop1 _ = _
  unfold decodeCop1; rw [rsOf_wordR]
  show decodeFmtD _ = _
  unfold decodeFmtD; rw [functOf_wordR]
  show whenZero _ _ = _
  simp [whenZero]
theorem cvtSW (fs : Reg) (fd : Reg) : Statement (.cvtSW fs fd) := by
  unfold Statement
  show decode (wordR 17 20 0 fs fd 32) = .ok (.cvtSW fs fd)
  unfold decode; rw [opOf_wordR]
  show decodeCop1 _ = _
  unfold decodeCop1; rw [rsOf_wordR]
  show decodeFmtW _ = _
  unfold decodeFmtW; rw [functOf_wordR]
  show whenZero _ _ = _
  simp [whenZero]
theorem cvtDS (fs : Reg) (fd : Reg) : Statement (.cvtDS fs fd) := by
  unfold Statement
  show decode (wordR 17 16 0 fs fd 33) = .ok (.cvtDS fs fd)
  unfold decode; rw [opOf_wordR]
  show decodeCop1 _ = _
  unfold decodeCop1; rw [rsOf_wordR]
  show decodeFmtS _ = _
  unfold decodeFmtS; rw [functOf_wordR]
  show whenZero _ _ = _
  simp [whenZero]
theorem cvtDW (fs : Reg) (fd : Reg) : Statement (.cvtDW fs fd) := by
  unfold Statement
  show decode (wordR 17 20 0 fs fd 33) = .ok (.cvtDW fs fd)
  unfold decode; rw [opOf_wordR]
  show decodeCop1 _ = _
  unfold decodeCop1; rw [rsOf_wordR]
  show decodeFmtW _ = _
  unfold decodeFmtW; rw [functOf_wordR]
  show whenZero _ _ = _
  simp [whenZero]
theorem movfS (cc : Cc) (fs : Reg) (fd : Reg) : Statement (.movfS cc fs fd) := by
  unfold Statement
  show decode (wordR 17 16 (ccField cc 0) fs fd 17) = .ok (.movfS cc fs fd)
  unfold decode; rw [opOf_wordR]
  show decodeCop1 _ = _
  unfold decodeCop1; rw [rsOf_wordR]
  show decodeFmtS _ = _
  unfold decodeFmtS; rw [functOf_wordR]
  rw [rtOf_wordR, selOf_ccField]
  show Except.ok _ = _
  simp
theorem movfD (cc : Cc) (fs : Reg) (fd : Reg) : Statement (.movfD cc fs fd) := by
  unfold Statement
  show decode (wordR 17 17 (ccField cc 0) fs fd 17) = .ok (.movfD cc fs fd)
  unfold decode; rw [opOf_wordR]
  show decodeCop1 _ = _
  unfold decodeCop1; rw [rsOf_wordR]
  show decodeFmtD _ = _
  unfold decodeFmtD; rw [functOf_wordR]
  rw [rtOf_wordR, selOf_ccField]
  show Except.ok _ = _
  simp
theorem movtS (cc : Cc) (fs : Reg) (fd : Reg) : Statement (.movtS cc fs fd) := by
  unfold Statement
  show decode (wordR 17 16 (ccField cc 1) fs fd 17) = .ok (.movtS cc fs fd)
  unfold decode; rw [opOf_wordR]
  show decodeCop1 _ = _
  unfold decodeCop1; rw [rsOf_wordR]
  show decodeFmtS _ = _
  unfold decodeFmtS; rw [functOf_wordR]
  rw [rtOf_wordR, selOf_ccField]
  show Except.ok _ = _
  simp
theorem movtD (cc : Cc) (fs : Reg) (fd : Reg) : Statement (.movtD cc fs fd) := by
  unfold Statement
  show decode (wordR 17 17 (ccField cc 1) fs fd 17) = .ok (.movtD cc fs fd)
  unfold decode; rw [opOf_wordR]
  show decodeCop1 _ = _
  unfold decodeCop1; rw [rsOf_wordR]
  show decodeFmtD _ = _
  unfold decodeFmtD; rw [functOf_wordR]
  rw [rtOf_wordR, selOf_ccField]
  show Except.ok _ = _
  simp
theorem movzS (rt : Reg) (fs : Reg) (fd : Reg) : Statement (.movzS rt fs fd) := by
  unfold Statement
  show decode (wordR 17 16 rt fs fd 18) = .ok (.movzS rt fs fd)
  unfold decode; rw [opOf_wordR]
  show decodeCop1 _ = _
  unfold decodeCop1; rw [rsOf_wordR]
  show decodeFmtS _ = _
  unfold decodeFmtS; rw [functOf_wordR]
  show Except.ok _ = _
  simp
theorem movzD (rt : Reg) (fs : Reg) (fd : Reg) : Statement (.movzD rt fs fd) := by
  unfold Statement
  show decode (wordR 17 17 rt fs fd 18) = .ok (.movzD rt fs fd)
  unfold decode; rw [opOf_wordR]
  show decodeCop1 _ = _
  unfold decodeCop1; rw [rsOf_wordR]
  show decodeFmtD _ = _
  unfold decodeFmtD; rw [functOf_wordR]
  show Except.ok _ = _
  simp
theorem movnS (rt : Reg) (fs : Reg) (fd : Reg) : Statement (.movnS rt fs fd) := by
  unfold Statement
  show decode (wordR 17 16 rt fs fd 19) = .ok (.movnS rt fs fd)
  unfold decode; rw [opOf_wordR]
  show decodeCop1 _ = _
  unfold decodeCop1; rw [rsOf_wordR]
  show decodeFmtS _ = _
  unfold decodeFmtS; rw [functOf_wordR]
  show Except.ok _ = _
  simp
theorem movnD (rt : Reg) (fs : Reg) (fd : Reg) : Statement (.movnD rt fs fd) := by
  unfold Statement
  show decode (wordR 17 17 rt fs fd 19) = .ok (.movnD rt fs fd)
  unfold decode; rw [opOf_wordR]
  show decodeCop1 _ = _
  unfold decodeCop1; rw [rsOf_wordR]
  show decodeFmtD _ = _
  unfold decodeFmtD; rw [functOf_wordR]
  show Except.ok _ = _
  simp
theorem cFS (ft : Reg) (fs : Reg) (cc : Cc) : Statement (.cFS ft fs cc) := by
  unfold Statement
  show decode (wordR 17 16 ft fs (ccCmpField cc) 48) = .ok (.cFS ft fs cc)
  unfold decode; rw [opOf_wordR]
  show decodeCop1 _ = _
  unfold decodeCop1; rw [rsOf_wordR]
  show decodeFmtS _ = _
  unfold decodeFmtS; rw [functOf_wordR]
  show whenZero _ _ = _
  simp [whenZero]
theorem cFD (ft : Reg) (fs : Reg) (cc : Cc) : Statement (.cFD ft fs cc) := by
  unfold Statement
  show decode (wordR 17 17 ft fs (ccCmpField cc) 48) = .ok (.cFD ft fs cc)
  unfold decode; rw [opOf_wordR]
  show decodeCop1 _ = _
  unfold decodeCop1; rw [rsOf_wordR]
  show decodeFmtD _ = _
  unfold decodeFmtD; rw [functOf_wordR]
  show whenZero _ _ = _
  simp [whenZero]
theorem cUnS (ft : Reg) (fs : Reg) (cc : Cc) : Statement (.cUnS ft fs cc) := by
  unfold Statement
  show decode (wordR 17 16 ft fs (ccCmpField cc) 49) = .ok (.cUnS ft fs cc)
  unfold decode; rw [opOf_wordR]
  show decodeCop1 _ = _
  unfold decodeCop1; rw [rsOf_wordR]
  show decodeFmtS _ = _
  unfold decodeFmtS; rw [functOf_wordR]
  show whenZero _ _ = _
  simp [whenZero]
theorem cUnD (ft : Reg) (fs : Reg) (cc : Cc) : Statement (.cUnD ft fs cc) := by
  unfold Statement
  show decode (wordR 17 17 ft fs (ccCmpField cc) 49) = .ok (.cUnD ft fs cc)
  unfold decode; rw [opOf_wordR]
  show decodeCop1 _ = _
  unfold decodeCop1; rw [rsOf_wordR]
  show decodeFmtD _ = _
  unfold decodeFmtD; rw [functOf_wordR]
  show whenZero _ _ = _
  simp [whenZero]
theorem cEqS (ft : Reg) (fs : Reg) (cc : Cc) : Statement (.cEqS ft fs cc) := by
  unfold Statement
  show decode (wordR 17 16 ft fs (ccCmpField cc) 50) = .ok (.cEqS ft fs cc)
  unfold decode; rw [opOf_wordR]
  show decodeCop1 _ = _
  unfold decodeCop1; rw [rsOf_wordR]
  show decodeFmtS _ = _
  unfold decodeFmtS; rw [functOf_wordR]
  show whenZero _ _ = _
  simp [whenZero]
theorem cEqD (ft : Reg) (fs : Reg) (cc : Cc) : Statement (.cEqD ft fs cc) := by
  unfold Statement
  show decode (wordR 17 17 ft fs (ccCmpField cc) 50) = .ok (.cEqD ft fs cc)
  unfold decode; rw [opOf_wordR]
  show decodeCop1 _ = _
  unfold decodeCop1; rw [rsOf_wordR]
  show decodeFmtD _ = _
  unfold decodeFmtD; rw [functOf_wordR]
  show whenZero _ _ = _
  simp [whenZero]
theorem cUeqS (ft : Reg) (fs : Reg) (cc : Cc) : Statement (.cUeqS ft fs cc) := by
  unfold Statement
  show decode (wordR 17 16 ft fs (ccCmpField cc) 51) = .ok (.cUeqS ft fs cc)
  unfold decode; rw [opOf_wordR]
  show decodeCop1 _ = _
  unfold decodeCop1; rw [rsOf_wordR]
  show decodeFmtS _ = _
  unfold decodeFmtS; rw [functOf_wordR]
  show whenZero _ _ = _
  simp [whenZero]
theorem cUeqD (ft : Reg) (fs : Reg) (cc : Cc) : Statement (.cUeqD ft fs cc) := by
  unfold Statement
  show decode (wordR 17 17 ft fs (ccCmpField cc) 51) = .ok (.cUeqD ft fs cc)
  unfold decode; rw [opOf_wordR]
  show decodeCop1 _ = _
  unfold decodeCop1; rw [rsOf_wordR]
  show decodeFmtD _ = _
  unfold decodeFmtD; rw [functOf_wordR]
  show whenZero _ _ = _
  simp [whenZero]
theorem cOltS (ft : Reg) (fs : Reg) (cc : Cc) : Statement (.cOltS ft fs cc) := by
  unfold Statement
  show decode (wordR 17 16 ft fs (ccCmpField cc) 52) = .ok (.cOltS ft fs cc)
  unfold decode; rw [opOf_wordR]
  show decodeCop1 _ = _
  unfold decodeCop1; rw [rsOf_wordR]
  show decodeFmtS _ = _
  unfold decodeFmtS; rw [functOf_wordR]
  show whenZero _ _ = _
  simp [whenZero]
theorem cOltD (ft : Reg) (fs : Reg) (cc : Cc) : Statement (.cOltD ft fs cc) := by
  unfold Statement
  show decode (wordR 17 17 ft fs (ccCmpField cc) 52) = .ok (.cOltD ft fs cc)
  unfold decode; rw [opOf_wordR]
  show decodeCop1 _ = _
  unfold decodeCop1; rw [rsOf_wordR]
  show decodeFmtD _ = _
  unfold decodeFmtD; rw [functOf_wordR]
  show whenZero _ _ = _
  simp [whenZero]
theorem cUltS (ft : Reg) (fs : Reg) (cc : Cc) : Statement (.cUltS ft fs cc) := by
  unfold Statement
  show decode (wordR 17 16 ft fs (ccCmpField cc) 53) = .ok (.cUltS ft fs cc)
  unfold decode; rw [opOf_wordR]
  show decodeCop1 _ = _
  unfold decodeCop1; rw [rsOf_wordR]
  show decodeFmtS _ = _
  unfold decodeFmtS; rw [functOf_wordR]
  show whenZero _ _ = _
  simp [whenZero]
theorem cUltD (ft : Reg) (fs : Reg) (cc : Cc) : Statement (.cUltD ft fs cc) := by
  unfold Statement
  show decode (wordR 17 17 ft fs (ccCmpField cc) 53) = .ok (.cUltD ft fs cc)
  unfold decode; rw [opOf_wordR]
  show decodeCop1 _ = _
  unfold decodeCop1; rw [rsOf_wordR]
  show decodeFmtD _ = _
  unfold decodeFmtD; rw [functOf_wordR]
  show whenZero _ _ = _
  simp [whenZero]
theorem cOleS (ft : Reg) (fs : Reg) (cc : Cc) : Statement (.cOleS ft fs cc) := by
  unfold Statement
  show decode (wordR 17 16 ft fs (ccCmpField cc) 54) = .ok (.cOleS ft fs cc)
  unfold decode; rw [opOf_wordR]
  show decodeCop1 _ = _
  unfold decodeCop1; rw [rsOf_wordR]
  show decodeFmtS _ = _
  unfold decodeFmtS; rw [functOf_wordR]
  show whenZero _ _ = _
  simp [whenZero]
theorem cOleD (ft : Reg) (fs : Reg) (cc : Cc) : Statement (.cOleD ft fs cc) := by
  unfold Statement
  show decode (wordR 17 17 ft fs (ccCmpField cc) 54) = .ok (.cOleD ft fs cc)
  unfold decode; rw [opOf_wordR]
  show decodeCop1 _ = _
  unfold decodeCop1; rw [rsOf_wordR]
  show decodeFmtD _ = _
  unfold decodeFmtD; rw [functOf_wordR]
  show whenZero _ _ = _
  simp [whenZero]
theorem cUleS (ft : Reg) (fs : Reg) (cc : Cc) : Statement (.cUleS ft fs cc) := by
  unfold Statement
  show decode (wordR 17 16 ft fs (ccCmpField cc) 55) = .ok (.cUleS ft fs cc)
  unfold decode; rw [opOf_wordR]
  show decodeCop1 _ = _
  unfold decodeCop1; rw [rsOf_wordR]
  show decodeFmtS _ = _
  unfold decodeFmtS; rw [functOf_wordR]
  show whenZero _ _ = _
  simp [whenZero]
theorem cUleD (ft : Reg) (fs : Reg) (cc : Cc) : Statement (.cUleD ft fs cc) := by
  unfold Statement
  show decode (wordR 17 17 ft fs (ccCmpField cc) 55) = .ok (.cUleD ft fs cc)
  unfold decode; rw [opOf_wordR]
  show decodeCop1 _ = _
  unfold decodeCop1; rw [rsOf_wordR]
  show decodeFmtD _ = _
  unfold decodeFmtD; rw [functOf_wordR]
  show whenZero _ _ = _
  simp [whenZero]
theorem cSfS (ft : Reg) (fs : Reg) (cc : Cc) : Statement (.cSfS ft fs cc) := by
  unfold Statement
  show decode (wordR 17 16 ft fs (ccCmpField cc) 56) = .ok (.cSfS ft fs cc)
  unfold decode; rw [opOf_wordR]
  show decodeCop1 _ = _
  unfold decodeCop1; rw [rsOf_wordR]
  show decodeFmtS _ = _
  unfold decodeFmtS; rw [functOf_wordR]
  show whenZero _ _ = _
  simp [whenZero]
theorem cSfD (ft : Reg) (fs : Reg) (cc : Cc) : Statement (.cSfD ft fs cc) := by
  unfold Statement
  show decode (wordR 17 17 ft fs (ccCmpField cc) 56) = .ok (.cSfD ft fs cc)
  unfold decode; rw [opOf_wordR]
  show decodeCop1 _ = _
  unfold decodeCop1; rw [rsOf_wordR]
  show decodeFmtD _ = _
  unfold decodeFmtD; rw [functOf_wordR]
  show whenZero _ _ = _
  simp [whenZero]
theorem cNgleS (ft : Reg) (fs : Reg) (cc : Cc) : Statement (.cNgleS ft fs cc) := by
  unfold Statement
  show decode (wordR 17 16 ft fs (ccCmpField cc) 57) = .ok (.cNgleS ft fs cc)
  unfold decode; rw [opOf_wordR]
  show decodeCop1 _ = _
  unfold decodeCop1; rw [rsOf_wordR]
  show decodeFmtS _ = _
  unfold decodeFmtS; rw [functOf_wordR]
  show whenZero _ _ = _
  simp [whenZero]
theorem cNgleD (ft : Reg) (fs : Reg) (cc : Cc) : Statement (.cNgleD ft fs cc) := by
  unfold Statement
  show decode (wordR 17 17 ft fs (ccCmpField cc) 57) = .ok (.cNgleD ft fs cc)
  unfold decode; rw [opOf_wordR]
  show decodeCop1 _ = _
  unfold decodeCop1; rw [rsOf_wordR]
  show decodeFmtD _ = _
  unfold decodeFmtD; rw [functOf_wordR]
  show whenZero _ _ = _
  simp [whenZero]
theorem cSeqS (ft : Reg) (fs : Reg) (cc : Cc) : Statement (.cSeqS ft fs cc) := by
  unfold Statement
  show decode (wordR 17 16 ft fs (ccCmpField cc) 58) = .ok (.cSeqS ft fs cc)
  unfold decode; rw [opOf_wordR]
  show decodeCop1 _ = _
  unfold decodeCop1; rw [rsOf_wordR]
  show decodeFmtS _ = _
  unfold decodeFmtS; rw [functOf_wordR]
  show whenZero _ _ = _
  simp [whenZero]
theorem cSeqD (ft : Reg) (fs : Reg) (cc : Cc) : Statement (.cSeqD ft fs cc) := by
  unfold Statement
  show decode (wordR 17 17 ft fs (ccCmpField cc) 58) = .ok (.cSeqD ft fs cc)
  unfold decode; rw [opOf_wordR]
  show decodeCop1 _ = _
  unfold decodeCop1; rw [rsOf_wordR]
  show decodeFmtD _ = _
  unfold decodeFmtD; rw [functOf_wordR]
  show whenZero _ _ = _
  simp [whenZero]
theorem cNglS (ft : Reg) (fs : Reg) (cc : Cc) : Statement (.cNglS ft fs cc) := by
  unfold Statement
  show decode (wordR 17 16 ft fs (ccCmpField cc) 59) = .ok (.cNglS ft fs cc)
  unfold decode; rw [opOf_wordR]
  show decodeCop1 _ = _
  unfold decodeCop1; rw [rsOf_wordR]
  show decodeFmtS _ = _
  unfold decodeFmtS; rw [functOf_wordR]
  show whenZero _ _ = _
  simp [whenZero]
theorem cNglD (ft : Reg) (fs : Reg) (cc : Cc) : Statement (.cNglD ft fs cc) := by
  unfold Statement
  show decode (wordR 17 17 ft fs (ccCmpField cc) 59) = .ok (.cNglD ft fs cc)
  unfold decode; rw [opOf_wordR]
  show decodeCop1 _ = _
  unfold decodeCop1; rw [rsOf_wordR]
  show decodeFmtD _ = _
  unfold decodeFmtD; rw [functOf_wordR]
  show whenZero _ _ = _
  simp [whenZero]
theorem cLtS (ft : Reg) (fs : Reg) (cc : Cc) : Statement (.cLtS ft fs cc) := by
  unfold Statement
  show decode (wordR 17 16 ft fs (ccCmpField cc) 60) = .ok (.cLtS ft fs cc)
  unfold decode; rw [opOf_wordR]
  show decodeCop1 _ = _
  unfold decodeCop1; rw [rsOf_wordR]
  show decodeFmtS _ = _
  unfold decodeFmtS; rw [functOf_wordR]
  show whenZero _ _ = _
  simp [whenZero]
theorem cLtD (ft : Reg) (fs : Reg) (cc : Cc) : Statement (.cLtD ft fs cc) := by
  unfold Statement
  show decode (wordR 17 17 ft fs (ccCmpField cc) 60) = .ok (.cLtD ft fs cc)
  unfold decode; rw [opOf_wordR]
  show decodeCop1 _ = _
  unfold decodeCop1; rw [rsOf_wordR]
  show decodeFmtD _ = _
  unfold decodeFmtD; rw [functOf_wordR]
  show whenZero _ _ = _
  simp [whenZero]
theorem cNgeS (ft : Reg) (fs : Reg) (cc : Cc) : Statement (.cNgeS ft fs cc) := by
  unfold Statement
  show decode (wordR 17 16 ft fs (ccCmpField cc) 61) = .ok (.cNgeS ft fs cc)
  unfold decode; rw [opOf_wordR]
  show decodeCop1 _ = _
  unfold decodeCop1; rw [rsOf_wordR]
  show decodeFmtS _ = _
  unfold decodeFmtS; rw [functOf_wordR]
  show whenZero _ _ = _
  simp [whenZero]
theorem cNgeD (ft : Reg) (fs : Reg) (cc : Cc) : Statement (.cNgeD ft fs cc) := by
  unfold Statement
  show decode (wordR 17 17 ft fs (ccCmpField cc) 61) = .ok (.cNgeD ft fs cc)
  unfold decode; rw [opOf_wordR]
  show decodeCop1 _ = _
  unfold decodeCop1; rw [rsOf_wordR]
  show decodeFmtD _ = _
  unfold decodeFmtD; rw [functOf_wordR]
  show whenZero _ _ = _
  simp [whenZero]
theorem cLeS (ft : Reg) (fs : Reg) (cc : Cc) : Statement (.cLeS ft fs cc) := by
  unfold Statement
  show decode (wordR 17 16 ft fs (ccCmpField cc) 62) = .ok (.cLeS ft fs cc)
  unfold decode; rw [opOf_wordR]
  show decodeCop1 _ = _
  unfold decodeCop1; rw [rsOf_wordR]
  show decodeFmtS _ = _
  unfold decodeFmtS; rw [functOf_wordR]
  show whenZero _ _ = _
  simp [whenZero]
theorem cLeD (ft : Reg) (fs : Reg) (cc : Cc) : Statement (.cLeD ft fs cc) := by
  unfold Statement
  show decode (wordR 17 17 ft fs (ccCmpField cc) 62) = .ok (.cLeD ft fs cc)
  unfold decode; rw [opOf_wordR]
  show decodeCop1 _ = _
  unfold decodeCop1; rw [rsOf_wordR]
  show decodeFmtD _ = _
  unfold decodeFmtD; rw [functOf_wordR]
  show whenZero _ _ = _
  simp [whenZero]
theorem cNgtS (ft : Reg) (fs : Reg) (cc : Cc) : Statement (.cNgtS ft fs cc) := by
  unfold Statement
  show decode (wordR 17 16 ft fs (ccCmpField cc) 63) = .ok (.cNgtS ft fs cc)
  unfold decode; rw [opOf_wordR]
  show decodeCop1 _ = _
  unfold decodeCop1; rw [rsOf_wordR]
  show decodeFmtS _ = _
  unfold decodeFmtS; rw [functOf_wordR]
  show whenZero _ _ = _
  simp [whenZero]
theorem cNgtD (ft : Reg) (fs : Reg) (cc : Cc) : Statement (.cNgtD ft fs cc) := by
  unfold Statement
  show decode (wordR 17 17 ft fs (ccCmpField cc) 63) = .ok (.cNgtD ft fs cc)
  unfold decode; rw [opOf_wordR]
  show decodeCop1 _ = _
  unfold decodeCop1; rw [rsOf_wordR]
  show decodeFmtD _ = _
  unfold decodeFmtD; rw [functOf_wordR]
  show whenZero _ _ = _
  simp [whenZero]
theorem b (off : Half) : Statement (.b off) := by
  unfold Statement
  show decode (wordI 4 0 0 off) = .ok (.beq 0 0 off)
  unfold decode; rw [opOf_wordI]
  show Except.ok _ = _
  simp
theorem bal (off : Half) : Statement (.bal off) := by
  unfold Statement
  show decode (wordI 1 0 17 off) = .ok (.bgezal 0 off)
  unfold decode; rw [opOf_wordI]
  show decodeRegimm _ = _
  unfold decodeRegimm; rw [rtOf_wordI]
  show Except.ok _ = _
  simp
theorem nop : Statement (.nop) := by
  unfold Statement
  show decode (wordR 0 0 0 0 0 0) = .ok (.sll 0 0 0)
  unfold decode; rw [opOf_wordR]
  show decodeSpecial _ = _
  unfold decodeSpecial; rw [functOf_wordR]
  show whenZero _ _ = _
  simp [whenZero]
theorem ssnop : Statement (.ssnop) := by
  unfold Statement
  show decode (wordR 0 0 0 0 1 0) = .ok (.sll 0 0 1)
  unfold decode; rw [opOf_wordR]
  show decodeSpecial _ = _
  unfold decodeSpecial; rw [functOf_wordR]
  show whenZero _ _ = _
  simp [whenZero]

end Sys2Proof.Laws.Codec
end

