-- ==== Sys2Proof/Tests/Slice0.lean ====
section
/-! SUPPORT. The model's own tests. Expected values are the spec's: the encoding figures of its rules, and the rows of
spec/95_test_vectors.md and spec/96_test_vectors_fpu_programs.md. At the end, for every statement with hypotheses, a
state and operands that meet them. -/
namespace Sys2Proof.Tests

open Sys2Proof Sys2Proof.Machine

set_option Elab.async false

/-! ## Well-formedness -/

/-- The four idioms are no instructions of their own (spec/30_encoding.md R125): the check refuses each. -/
theorem test_wellformed_refuses_idioms :
    Instr.WellFormed (.b 4) = false ∧ Instr.WellFormed (.bal 4) = false ∧ Instr.WellFormed .nop = false
    ∧ Instr.WellFormed .ssnop = false := by
  decide

/-- What the idioms' words stand for is well-formed. -/
theorem test_wellformed_accepts :
    Instr.WellFormed (.beq 0 0 4) = true ∧ Instr.WellFormed (.bgezal 0 4) = true ∧ Instr.WellFormed (.sll 0 0 0) = true
    ∧ Instr.WellFormed (.cLtS 4 2 5) = true := by
  decide

/-! ## Decoding -/

/-- The words of the idioms (spec/30_encoding.md R125) decode to the core instructions. -/
theorem test_decode_idioms : ∀ p ∈ ([(0, .sll 0 0 0), (0x40, .sll 0 0 1), (0x10000004, .beq 0 0 4),
    (0x04110004, .bgezal 0 4)] : List (Word × Instr)),
    decode p.1 = .ok p.2 := by
  decide +kernel

/-- Words that are no instruction, each refused for its own reason (spec/30_encoding.md R121, R127). -/
theorem test_decode_refuses : ∀ p ∈ ([(0xFC000000, .reservedOpcode 63), (0x00000001, .reservedSpecial 1), (0x00221860, .mustBeZero), (0x48000000, .reservedUnit 18),
    (0x4C000000, .reservedUnit 19), (0x70000003, .reservedSpecial2 3), (0x04040000, .reservedRegimm 4),
    (0x42000003, .reservedCop0 16 3), (0x40200000, .reservedCop0 1 0), (0x46E00000, .reservedCop1 23),
    (0x46000010, .reservedFpu 16 16), (0x46000170, .mustBeZero), (0x3C230001, .mustBeZero),
    (0x18210004, .mustBeZero)] : List (Word × DecodeError)), decode p.1 = .error p.2 := by
  decide +kernel

/-- The host's numbering: a word whose bits are all in nbits (log 46). -/
theorem test_decodeTableWord : decodeTableWord 32 0x2023FFFF = some (.addi 1 3 0xFFFF) := by
  decide +kernel

/-- The figures of spec/41_alu_immediate.md R160 to R167, bit by bit. -/
theorem test_decode_alu_immediate : ∀ p ∈ ([
    (0b001000_00001_00010_1000000000000001, .addi 1 2 0x8001),
    (0b001001_00001_00010_1000000000000001, .addiu 1 2 0x8001),
    (0b001010_00001_00010_1000000000000001, .slti 1 2 0x8001),
    (0b001011_00001_00010_1000000000000001, .sltiu 1 2 0x8001),
    (0b001100_00001_00010_1000000000000001, .andi 1 2 0x8001),
    (0b001101_00001_00010_1000000000000001, .ori 1 2 0x8001),
    (0b001110_00001_00010_1000000000000001, .xori 1 2 0x8001),
    (0b001111_00000_00010_1000000000000001, .lui 2 0x8001)] : List (Word × Instr)),
    decode p.1 = .ok p.2 := by
  decide +kernel

/-- The figures of spec/42_alu_register.md R170 to R183, bit by bit. -/
theorem test_decode_alu_register : ∀ p ∈ ([
    (0b000000_00001_00010_00011_00000_100000, .add 1 2 3),
    (0b000000_00001_00010_00011_00000_100001, .addu 1 2 3),
    (0b000000_00001_00010_00011_00000_100010, .sub 1 2 3),
    (0b000000_00001_00010_00011_00000_100011, .subu 1 2 3),
    (0b000000_00001_00010_00011_00000_101010, .slt 1 2 3),
    (0b000000_00001_00010_00011_00000_101011, .sltu 1 2 3),
    (0b000000_00001_00010_00011_00000_100100, .and 1 2 3),
    (0b000000_00001_00010_00011_00000_100101, .or 1 2 3),
    (0b000000_00001_00010_00011_00000_100110, .xor 1 2 3),
    (0b000000_00001_00010_00011_00000_100111, .nor 1 2 3),
    (0b011100_00001_00011_00011_00000_100001, .clo 1 3 3),
    (0b011100_00001_00011_00011_00000_100000, .clz 1 3 3),
    (0b000000_00001_00010_00011_00000_001011, .movn 1 2 3),
    (0b000000_00001_00010_00011_00000_001010, .movz 1 2 3)] : List (Word × Instr)),
    decode p.1 = .ok p.2 := by
  decide +kernel

/-- The figures of spec/43_shift.md R190 to R195, bit by bit. -/
theorem test_decode_shifts : ∀ p ∈ ([
    (0b000000_00000_00010_00011_00101_000000, .sll 2 3 5),
    (0b000000_00000_00010_00011_00101_000010, .srl 2 3 5),
    (0b000000_00000_00010_00011_00101_000011, .sra 2 3 5),
    (0b000000_00001_00010_00011_00000_000100, .sllv 1 2 3),
    (0b000000_00001_00010_00011_00000_000110, .srlv 1 2 3),
    (0b000000_00001_00010_00011_00000_000111, .srav 1 2 3)] : List (Word × Instr)),
    decode p.1 = .ok p.2 := by
  decide +kernel

/-- The figures of spec/44_muldiv.md R200 to R213, bit by bit. -/
theorem test_decode_multiply_divide : ∀ p ∈ ([
    (0b000000_00001_00010_0000000000_011000, .mult 1 2),
    (0b000000_00001_00010_0000000000_011001, .multu 1 2),
    (0b011100_00001_00010_00011_00000_000010, .mul 1 2 3),
    (0b011100_00001_00010_00000_00000_000000, .madd 1 2),
    (0b011100_00001_00010_00000_00000_000001, .maddu 1 2),
    (0b011100_00001_00010_00000_00000_000100, .msub 1 2),
    (0b011100_00001_00010_00000_00000_000101, .msubu 1 2),
    (0b000000_00001_00010_0000000000_011010, .div 1 2),
    (0b000000_00001_00010_0000000000_011011, .divu 1 2),
    (0b000000_0000000000_00011_00000_010000, .mfhi 3),
    (0b000000_0000000000_00011_00000_010010, .mflo 3),
    (0b000000_00001_000000000000000_010001, .mthi 1),
    (0b000000_00001_000000000000000_010011, .mtlo 1)] : List (Word × Instr)),
    decode p.1 = .ok p.2 := by
  decide +kernel

/-- The figures of spec/40_load_store.md R141 to R154, bit by bit. -/
theorem test_decode_loads_stores : ∀ p ∈ ([
    (0b100000_00001_00010_1111111111111100, .lb 1 2 0xFFFC),
    (0b100100_00001_00010_1111111111111100, .lbu 1 2 0xFFFC),
    (0b100001_00001_00010_1111111111111100, .lh 1 2 0xFFFC),
    (0b100101_00001_00010_1111111111111100, .lhu 1 2 0xFFFC),
    (0b100011_00001_00010_1111111111111100, .lw 1 2 0xFFFC),
    (0b100010_00001_00010_1111111111111100, .lwl 1 2 0xFFFC),
    (0b100110_00001_00010_1111111111111100, .lwr 1 2 0xFFFC),
    (0b110000_00001_00010_1111111111111100, .ll 1 2 0xFFFC),
    (0b101000_00001_00010_1111111111111100, .sb 1 2 0xFFFC),
    (0b101001_00001_00010_1111111111111100, .sh 1 2 0xFFFC),
    (0b101011_00001_00010_1111111111111100, .sw 1 2 0xFFFC),
    (0b101010_00001_00010_1111111111111100, .swl 1 2 0xFFFC),
    (0b101110_00001_00010_1111111111111100, .swr 1 2 0xFFFC),
    (0b111000_00001_00010_1111111111111100, .sc 1 2 0xFFFC)] : List (Word × Instr)),
    decode p.1 = .ok p.2 := by
  decide +kernel

/-- The figures of spec/45_branch_jump.md R225 to R246, spec/49_fpu_arith.md R323, bit by bit. -/
theorem test_decode_branches : ∀ p ∈ ([
    (0b000100_00001_00010_1111111111111100, .beq 1 2 0xFFFC),
    (0b000101_00001_00010_1111111111111100, .bne 1 2 0xFFFC),
    (0b000110_00001_00000_1111111111111100, .blez 1 0xFFFC),
    (0b000111_00001_00000_1111111111111100, .bgtz 1 0xFFFC),
    (0b000001_00001_00000_1111111111111100, .bltz 1 0xFFFC),
    (0b000001_00001_00001_1111111111111100, .bgez 1 0xFFFC),
    (0b000001_00001_10000_1111111111111100, .bltzal 1 0xFFFC),
    (0b000001_00001_10001_1111111111111100, .bgezal 1 0xFFFC),
    (0b010100_00001_00010_1111111111111100, .beql 1 2 0xFFFC),
    (0b010101_00001_00010_1111111111111100, .bnel 1 2 0xFFFC),
    (0b010110_00001_00000_1111111111111100, .blezl 1 0xFFFC),
    (0b010111_00001_00000_1111111111111100, .bgtzl 1 0xFFFC),
    (0b000001_00001_00010_1111111111111100, .bltzl 1 0xFFFC),
    (0b000001_00001_00011_1111111111111100, .bgezl 1 0xFFFC),
    (0b000001_00001_10010_1111111111111100, .bltzall 1 0xFFFC),
    (0b000001_00001_10011_1111111111111100, .bgezall 1 0xFFFC),
    (0b000010_10101010111100110111101111, .j 0x2ABCDEF),
    (0b000011_10101010111100110111101111, .jal 0x2ABCDEF),
    (0b000000_00001_000000000000000_001000, .jr 1),
    (0b000000_00001_00000_00011_00000_001001, .jalr 1 3),
    (0b010001_01000_101_0_0_1111111111111100, .bc1f 5 0xFFFC),
    (0b010001_01000_101_0_1_1111111111111100, .bc1t 5 0xFFFC),
    (0b010001_01000_101_1_0_1111111111111100, .bc1fl 5 0xFFFC),
    (0b010001_01000_101_1_1_1111111111111100, .bc1tl 5 0xFFFC)] : List (Word × Instr)),
    decode p.1 = .ok p.2 := by
  decide +kernel

/-- The figures of spec/46_special.md R250 to R265, bit by bit. -/
theorem test_decode_special : ∀ p ∈ ([
    (0b000000_10101011110011011110_001100, .syscall 0xABCDE),
    (0b000000_10101011110011011110_001101, .brk 0xABCDE),
    (0b000000_000000000000000_10101_001111, .sync 21),
    (0b000000_00001_00010_0101010101_110000, .tge 1 2 0x155),
    (0b000000_00001_00010_0101010101_110001, .tgeu 1 2 0x155),
    (0b000000_00001_00010_0101010101_110010, .tlt 1 2 0x155),
    (0b000000_00001_00010_0101010101_110011, .tltu 1 2 0x155),
    (0b000000_00001_00010_0101010101_110100, .teq 1 2 0x155),
    (0b000000_00001_00010_0101010101_110110, .tne 1 2 0x155),
    (0b000001_00001_01000_1000000000000001, .tgei 1 0x8001),
    (0b000001_00001_01001_1000000000000001, .tgeiu 1 0x8001),
    (0b000001_00001_01010_1000000000000001, .tlti 1 0x8001),
    (0b000001_00001_01011_1000000000000001, .tltiu 1 0x8001),
    (0b000001_00001_01100_1000000000000001, .teqi 1 0x8001),
    (0b000001_00001_01110_1000000000000001, .tnei 1 0x8001)] : List (Word × Instr)),
    decode p.1 = .ok p.2 := by
  decide +kernel

/-- The figures of spec/47_cp0.md R270 to R277, spec/46_special.md R266, bit by bit. -/
theorem test_decode_cp0 : ∀ p ∈ ([
    (0b010000_1_0000000000000000000_011000, .eret),
    (0b010000_00000_00010_00011_00000000000, .mfc0 2 3),
    (0b010000_00100_00010_00011_00000000000, .mtc0 2 3),
    (0b010000_1_0000000000000000000_000001, .tlbr),
    (0b010000_1_0000000000000000000_000010, .tlbwi),
    (0b010000_1_0000000000000000000_000110, .tlbwr),
    (0b010000_1_0000000000000000000_001000, .tlbp),
    (0b010000_1_1010100001100100001_100000, .wait 0x54321)] : List (Word × Instr)),
    decode p.1 = .ok p.2 := by
  decide +kernel

/-- The figures of spec/48_fpu_move.md R282 to R295, bit by bit. -/
theorem test_decode_fpu_moves : ∀ p ∈ ([
    (0b110001_00001_00100_1111111111111100, .lwc1 1 4 0xFFFC),
    (0b110101_00001_00100_1111111111111100, .ldc1 1 4 0xFFFC),
    (0b111001_00001_00100_1111111111111100, .swc1 1 4 0xFFFC),
    (0b111101_00001_00100_1111111111111100, .sdc1 1 4 0xFFFC),
    (0b010001_00000_00010_00010_00000000000, .mfc1 2 2),
    (0b010001_00100_00010_00010_00000000000, .mtc1 2 2),
    (0b010001_00010_00010_00010_00000000000, .cfc1 2 2),
    (0b010001_00110_00010_00010_00000000000, .ctc1 2 2),
    (0b010001_10000_00000_00010_00110_000110, .movS 2 6),
    (0b010001_10000_101_0_0_00010_00110_010001, .movfS 5 2 6),
    (0b010001_10000_101_0_1_00010_00110_010001, .movtS 5 2 6),
    (0b010001_10000_00010_00010_00110_010011, .movnS 2 2 6),
    (0b010001_10000_00010_00010_00110_010010, .movzS 2 2 6),
    (0b010001_10001_00000_00010_00110_000110, .movD 2 6),
    (0b010001_10001_101_0_0_00010_00110_010001, .movfD 5 2 6),
    (0b010001_10001_101_0_1_00010_00110_010001, .movtD 5 2 6),
    (0b010001_10001_00010_00010_00110_010011, .movnD 2 2 6),
    (0b010001_10001_00010_00010_00110_010010, .movzD 2 2 6)] : List (Word × Instr)),
    decode p.1 = .ok p.2 := by
  decide +kernel

/-- The figures of spec/30_encoding.md R115, R116, bit by bit. -/
theorem test_decode_fpu_arithmetic : ∀ p ∈ ([
    (0b010001_10000_00100_00010_00110_000000, .addS 4 2 6),
    (0b010001_10000_00100_00010_00110_000001, .subS 4 2 6),
    (0b010001_10000_00100_00010_00110_000010, .mulS 4 2 6),
    (0b010001_10000_00100_00010_00110_000011, .divS 4 2 6),
    (0b010001_10000_00000_00010_00110_000100, .sqrtS 2 6),
    (0b010001_10000_00000_00010_00110_000101, .absS 2 6),
    (0b010001_10000_00000_00010_00110_000111, .negS 2 6),
    (0b010001_10000_00000_00010_00110_001100, .roundWS 2 6),
    (0b010001_10000_00000_00010_00110_001101, .truncWS 2 6),
    (0b010001_10000_00000_00010_00110_001110, .ceilWS 2 6),
    (0b010001_10000_00000_00010_00110_001111, .floorWS 2 6),
    (0b010001_10000_00000_00010_00110_100100, .cvtWS 2 6),
    (0b010001_10001_00100_00010_00110_000000, .addD 4 2 6),
    (0b010001_10001_00100_00010_00110_000001, .subD 4 2 6),
    (0b010001_10001_00100_00010_00110_000010, .mulD 4 2 6),
    (0b010001_10001_00100_00010_00110_000011, .divD 4 2 6),
    (0b010001_10001_00000_00010_00110_000100, .sqrtD 2 6),
    (0b010001_10001_00000_00010_00110_000101, .absD 2 6),
    (0b010001_10001_00000_00010_00110_000111, .negD 2 6),
    (0b010001_10001_00000_00010_00110_001100, .roundWD 2 6),
    (0b010001_10001_00000_00010_00110_001101, .truncWD 2 6),
    (0b010001_10001_00000_00010_00110_001110, .ceilWD 2 6),
    (0b010001_10001_00000_00010_00110_001111, .floorWD 2 6),
    (0b010001_10001_00000_00010_00110_100100, .cvtWD 2 6),
    (0b010001_10000_00000_00010_00110_100001, .cvtDS 2 6),
    (0b010001_10100_00000_00010_00110_100001, .cvtDW 2 6),
    (0b010001_10001_00000_00010_00110_100000, .cvtSD 2 6),
    (0b010001_10100_00000_00010_00110_100000, .cvtSW 2 6)] : List (Word × Instr)),
    decode p.1 = .ok p.2 := by
  decide +kernel

/-- The figures of spec/49_fpu_arith.md R312, R313, R314, bit by bit. -/
theorem test_decode_fpu_compares : ∀ p ∈ ([
    (0b010001_10000_00100_00010_101_0_0_11_0000, .cFS 4 2 5),
    (0b010001_10000_00100_00010_101_0_0_11_0001, .cUnS 4 2 5),
    (0b010001_10000_00100_00010_101_0_0_11_0010, .cEqS 4 2 5),
    (0b010001_10000_00100_00010_101_0_0_11_0011, .cUeqS 4 2 5),
    (0b010001_10000_00100_00010_101_0_0_11_0100, .cOltS 4 2 5),
    (0b010001_10000_00100_00010_101_0_0_11_0101, .cUltS 4 2 5),
    (0b010001_10000_00100_00010_101_0_0_11_0110, .cOleS 4 2 5),
    (0b010001_10000_00100_00010_101_0_0_11_0111, .cUleS 4 2 5),
    (0b010001_10000_00100_00010_101_0_0_11_1000, .cSfS 4 2 5),
    (0b010001_10000_00100_00010_101_0_0_11_1001, .cNgleS 4 2 5),
    (0b010001_10000_00100_00010_101_0_0_11_1010, .cSeqS 4 2 5),
    (0b010001_10000_00100_00010_101_0_0_11_1011, .cNglS 4 2 5),
    (0b010001_10000_00100_00010_101_0_0_11_1100, .cLtS 4 2 5),
    (0b010001_10000_00100_00010_101_0_0_11_1101, .cNgeS 4 2 5),
    (0b010001_10000_00100_00010_101_0_0_11_1110, .cLeS 4 2 5),
    (0b010001_10000_00100_00010_101_0_0_11_1111, .cNgtS 4 2 5),
    (0b010001_10001_00100_00010_101_0_0_11_0000, .cFD 4 2 5),
    (0b010001_10001_00100_00010_101_0_0_11_0001, .cUnD 4 2 5),
    (0b010001_10001_00100_00010_101_0_0_11_0010, .cEqD 4 2 5),
    (0b010001_10001_00100_00010_101_0_0_11_0011, .cUeqD 4 2 5),
    (0b010001_10001_00100_00010_101_0_0_11_0100, .cOltD 4 2 5),
    (0b010001_10001_00100_00010_101_0_0_11_0101, .cUltD 4 2 5),
    (0b010001_10001_00100_00010_101_0_0_11_0110, .cOleD 4 2 5),
    (0b010001_10001_00100_00010_101_0_0_11_0111, .cUleD 4 2 5),
    (0b010001_10001_00100_00010_101_0_0_11_1000, .cSfD 4 2 5),
    (0b010001_10001_00100_00010_101_0_0_11_1001, .cNgleD 4 2 5),
    (0b010001_10001_00100_00010_101_0_0_11_1010, .cSeqD 4 2 5),
    (0b010001_10001_00100_00010_101_0_0_11_1011, .cNglD 4 2 5),
    (0b010001_10001_00100_00010_101_0_0_11_1100, .cLtD 4 2 5),
    (0b010001_10001_00100_00010_101_0_0_11_1101, .cNgeD 4 2 5),
    (0b010001_10001_00100_00010_101_0_0_11_1110, .cLeD 4 2 5),
    (0b010001_10001_00100_00010_101_0_0_11_1111, .cNgtD 4 2 5)] : List (Word × Instr)),
    decode p.1 = .ok p.2 := by
  decide +kernel

/-! ## One instruction on a small state -/

/-- The conventions of spec/95_test_vectors.md: kernel mode in kseg0 at 0x80001000, Status and Cause 0, r3 marked. -/
def base : State :=
  { State.reset.writeGpr 3 0x33333333 with
    pc := 0x80001000, npc := 0x80001004, cp0 := { State.reset.cp0 with status := 0 } }

/-- The base with values in r1 and r2. -/
def two (a b : Word) : State := (base.writeGpr 1 a).writeGpr 2 b

/-- The base with another Status. -/
def withStatus (s : State) (v : Word) : State := { s with cp0 := { s.cp0 with status := v } }

/-- The base with these bytes from an address up. -/
def withBytes (s : State) (a : Nat) : List Byte → State
  | [] => s
  | b :: m => withBytes (s.setByte a b) (a + 1) m

/-- In the other byte order. -/
def little (s : State) : State := { s with cfg := { s.cfg with bigEndianMem := false } }

/-- What f sees after the instruction; nothing where it stops. -/
def sees {α : Type} (i : Instr) (s : State) (f : State → α) : Option α :=
  match exec i s with
  | .next t => some (f t)
  | .fault _ => none
  | .refused _ => none

/-- EPC, Cause and pc. -/
def entry (t : State) : Word × Word × Word := (t.cp0.epc, t.cp0.cause, t.pc)

/-- pc, npc and the delay slot flag. -/
def control (t : State) : Word × Word × Bool := (t.pc, t.npc, t.inDelaySlot)

/-- Rows of spec/95_test_vectors.md 2.1 and 2.2: r1, r2 before, r3 after. -/
theorem test_alu_results : ∀ p ∈ ([
    (.addi 1 3 0xFFFF, 0x7FFFFFFF, 0, 0x7FFFFFFE), (.addiu 1 3 0x8000, 0, 0, 0xFFFF8000),
    (.slti 1 3 0, 0xFFFFFFFF, 0, 1), (.slti 1 3 0xFFFF, 0, 0, 0), (.sltiu 1 3 0xFFFF, 0, 0, 1),
    (.sltiu 1 3 0x8000, 0xFFFF7FFF, 0, 1), (.andi 1 3 0x8001, 0xFFFFFFFF, 0, 0x8001),
    (.ori 1 3 0x8001, 0x12340000, 0, 0x12348001), (.xori 1 3 0xFFFF, 0xFFFFFFFF, 0, 0xFFFF0000),
    (.lui 3 0x8001, 0, 0, 0x80010000), (.add 1 2 3, 0xFFFFFFFF, 1, 0), (.addu 1 2 3, 0x7FFFFFFF, 1, 0x80000000),
    (.sub 1 2 3, 5, 7, 0xFFFFFFFE), (.subu 1 2 3, 0x80000000, 1, 0x7FFFFFFF),
    (.slt 1 2 3, 0x80000000, 0x7FFFFFFF, 1), (.sltu 1 2 3, 0x80000000, 0x7FFFFFFF, 0),
    (.and 1 2 3, 0xFF00FF00, 0x0FF00FF0, 0x0F000F00), (.or 1 2 3, 0xFF00FF00, 0x0FF00FF0, 0xFFF0FFF0),
    (.xor 1 2 3, 0xFF00FF00, 0x0FF00FF0, 0xF0F0F0F0), (.nor 1 2 3, 0xFF00FF00, 0x0FF00FF0, 0x000F000F),
    (.clo 1 3 3, 0xFFFE0000, 0, 15), (.clo 1 3 3, 0xFFFFFFFF, 0, 32), (.clz 1 3 3, 0x00010000, 0, 15),
    (.clz 1 3 3, 0, 0, 32), (.movn 1 2 3, 0x11111111, 0x80000000, 0x11111111), (.movn 1 2 3, 0x11111111, 0, 0x33333333),
    (.movz 1 2 3, 0x11111111, 0, 0x11111111), (.movz 1 2 3, 0x11111111, 1, 0x33333333)] :
      List (Instr × Word × Word × Word)),
    sees p.1 (two p.2.1 p.2.2.1) (·.readGpr 3) = some p.2.2.2 := by
  decide +kernel

/-- Integer overflow, rows of spec/95_test_vectors.md 2.1 and 2.2: Cause 0x30, even for r0. -/
theorem test_alu_overflow : ∀ p ∈ ([(.addi 1 3 1, 0x7FFFFFFF, 0), (.addi 1 0 1, 0x7FFFFFFF, 0),
    (.add 1 2 3, 0x80000000, 0xFFFFFFFF), (.sub 1 2 3, 0, 0x80000000)] : List (Instr × Word × Word)),
    sees p.1 (two p.2.1 p.2.2) entry = some (0x80001000, 0x30, 0x80000180) := by
  decide +kernel

/-- Rows of spec/95_test_vectors.md 2.3: r1, r2 before, r3 after. -/
theorem test_shift_results : ∀ p ∈ ([
    (.sll 2 3 1, 0, 0x80000001, 2), (.sll 2 3 31, 0, 1, 0x80000000), (.srl 2 3 31, 0, 0x80000000, 1),
    (.sra 2 3 4, 0, 0x80000000, 0xF8000000), (.sra 2 3 31, 0, 0x80000000, 0xFFFFFFFF), (.sllv 1 2 3, 0x20, 1, 1),
    (.sllv 1 2 3, 0x3F, 1, 0x80000000), (.srlv 1 2 3, 0x21, 0x80000000, 0x40000000),
    (.srav 1 2 3, 0xFFFFFFFF, 0x80000000, 0xFFFFFFFF), (.srav 1 2 3, 0x24, 0x7FFFFFFF, 0x07FFFFFF)] :
      List (Instr × Word × Word × Word)),
    sees p.1 (two p.2.1 p.2.2.1) (·.readGpr 3) = some p.2.2.2 := by
  decide +kernel

/-- Rows of spec/95_test_vectors.md 2.4: HI, LO, r1 and r2 before, HI and LO after. -/
theorem test_multiply_divide_results : ∀ p ∈ ([
    (.mult 1 2, 0, 0, 0x7FFFFFFF, 0xFFFFFFFE, 0xFFFFFFFF, 2), (.multu 1 2, 0, 0, 0xFFFFFFFF, 0xFFFFFFFF, 0xFFFFFFFE, 1),
    (.div 1 2, 0, 0, 0xFFFFFFF9, 2, 0xFFFFFFFF, 0xFFFFFFFD), (.div 1 2, 0, 0, 0x80000000, 0xFFFFFFFF, 0, 0x80000000),
    (.divu 1 2, 0, 0, 0xFFFFFFF9, 2, 1, 0x7FFFFFFC),
    (.madd 1 2, 0x7FFFFFFF, 0xFFFFFFFF, 0x7FFFFFFF, 0x7FFFFFFF, 0xBFFFFFFF, 0),
    (.maddu 1 2, 0xFFFFFFFF, 0xFFFFFFFF, 0xFFFFFFFF, 0xFFFFFFFF, 0xFFFFFFFE, 0),
    (.msub 1 2, 0, 0, 0x80000000, 0x80000000, 0xC0000000, 0), (.msubu 1 2, 0, 0, 0xFFFFFFFF, 1, 0xFFFFFFFF, 1),
    (.mthi 1, 0, 9, 0x12345678, 0, 0x12345678, 9), (.mtlo 1, 9, 0, 0x12345678, 0, 9, 0x12345678)] :
      List (Instr × Word × Word × Word × Word × Word × Word)),
    sees p.1 { two p.2.2.2.1 p.2.2.2.2.1 with hi := p.2.1, lo := p.2.2.1 } (fun t => (t.hi, t.lo))
      = some p.2.2.2.2.2 := by
  decide +kernel

/-- Rows of spec/95_test_vectors.md 2.4: what the three that write a general register give. -/
theorem test_multiply_divide_to_gpr :
    sees (.mul 1 2 3) (two 0x10000 0x10001) (·.readGpr 3) = some 0x10000
    ∧ sees (.mfhi 3) { base with hi := 0xAAAAAAAA, lo := 0x55555555 } (·.readGpr 3) = some 0xAAAAAAAA
    ∧ sees (.mflo 3) { base with hi := 0xAAAAAAAA, lo := 0x55555555 } (·.readGpr 3) = some 0x55555555 := by
  decide +kernel

/-- Memory of spec/95_test_vectors.md 2.5. -/
def memory25 : State :=
  withBytes (two 0x80002000 0) 0x2000 [0x80, 0x7F, 0xFF, 0x01, 0x90, 0xA0, 0xB0, 0xC0]

/-- Memory of spec/95_test_vectors.md 2.5, the unaligned accesses. -/
def memory25u : State :=
  withBytes ((two 0x80002000 0).writeGpr 3 0xAABBCCDD) 0x2000 [0x10, 0x11, 0x12, 0x13, 0, 0, 0, 0]

/-- Rows of spec/95_test_vectors.md 2.5, loads: r3 with memory in either byte order. -/
theorem test_load_results : ∀ p ∈ ([(.lb 1 3 0, 0xFFFFFF80, 0xFFFFFF80), (.lbu 1 3 2, 0xFF, 0xFF),
    (.lh 1 3 2, 0xFFFFFF01, 0x1FF), (.lhu 1 3 0, 0x807F, 0x7F80), (.lw 1 3 4, 0x90A0B0C0, 0xC0B0A090),
    (.ll 1 3 4, 0x90A0B0C0, 0xC0B0A090)] : List (Instr × Word × Word)),
    sees p.1 memory25 (·.readGpr 3) = some p.2.1 ∧ sees p.1 (little memory25) (·.readGpr 3) = some p.2.2 := by
  decide +kernel

/-- Rows of spec/95_test_vectors.md 2.5, unaligned loads: r3 with memory in either byte order. -/
theorem test_unaligned_load_results : ∀ p ∈ ([(.lwl 1 3 1, 0x111213DD, 0x1110CCDD), (.lwl 1 3 2, 0x1213CCDD, 0x121110DD),
    (.lwr 1 3 1, 0xAABB1011, 0xAA131211), (.lwr 1 3 2, 0xAA101112, 0xAABB1312)] : List (Instr × Word × Word)),
    sees p.1 memory25u (·.readGpr 3) = some p.2.1 ∧ sees p.1 (little memory25u) (·.readGpr 3) = some p.2.2 := by
  decide +kernel

/-- Rows of spec/95_test_vectors.md 2.5, stores: the bytes at 0x2000 in either byte order. -/
theorem test_store_results : ∀ p ∈ ([(.sb 1 3 3, [0x10, 0x11, 0x12, 0xDD, 0, 0, 0, 0], [0x10, 0x11, 0x12, 0xDD, 0, 0, 0, 0]),
    (.sh 1 3 2, [0x10, 0x11, 0xCC, 0xDD, 0, 0, 0, 0], [0x10, 0x11, 0xDD, 0xCC, 0, 0, 0, 0]),
    (.sw 1 3 4, [0x10, 0x11, 0x12, 0x13, 0xAA, 0xBB, 0xCC, 0xDD], [0x10, 0x11, 0x12, 0x13, 0xDD, 0xCC, 0xBB, 0xAA]),
    (.swl 1 3 1, [0x10, 0xAA, 0xBB, 0xCC, 0, 0, 0, 0], [0xBB, 0xAA, 0x12, 0x13, 0, 0, 0, 0]),
    (.swl 1 3 2, [0x10, 0x11, 0xAA, 0xBB, 0, 0, 0, 0], [0xCC, 0xBB, 0xAA, 0x13, 0, 0, 0, 0]),
    (.swr 1 3 1, [0xCC, 0xDD, 0x12, 0x13, 0, 0, 0, 0], [0x10, 0xDD, 0xCC, 0xBB, 0, 0, 0, 0]),
    (.swr 1 3 2, [0xBB, 0xCC, 0xDD, 0x13, 0, 0, 0, 0], [0x10, 0x11, 0xDD, 0xCC, 0, 0, 0, 0])] :
      List (Instr × List Byte × List Byte)),
    sees p.1 memory25u (fun t => (List.range 8).map (fun k => t.byteAt (0x2000 + k))) = some p.2.1
      ∧ sees p.1 (little memory25u) (fun t => (List.range 8).map (fun k => t.byteAt (0x2000 + k))) = some p.2.2 := by
  decide +kernel

/-- Rows of spec/95_test_vectors.md 2.5, SC: r3, LLbit and the word at 0x2000. -/
theorem test_sc_results :
    sees (.sc 1 3 0) { memory25u with
        llBit := true, llAddr := 0x2000, llVa := 0x80002000, llLo := 0x80001000, llHi := 0x80001000 }
      (fun t => (t.readGpr 3, t.llBit, t.wordAt 0x2000)) = some (1, false, 0xAABBCCDD)
    ∧ sees (.sc 1 3 0) memory25u (fun t => (t.readGpr 3, t.llBit, t.wordAt 0x2000)) = some (0, false, 0x10111213) := by
  decide +kernel

/-- Rows of spec/95_test_vectors.md 2.6, branches: r1, r2 before; pc, npc and the slot after. -/
theorem test_branch_results : ∀ p ∈ ([
    (.beq 1 2 4, 5, 5, 0x80001004, 0x80001014, true), (.beq 1 2 0x8000, 5, 5, 0x80001004, 0x7FFE1004, true),
    (.bne 1 2 4, 5, 6, 0x80001004, 0x80001014, true), (.bne 1 2 4, 5, 5, 0x80001004, 0x80001008, true),
    (.beql 1 2 4, 5, 6, 0x80001008, 0x8000100C, false), (.bnel 1 2 4, 5, 5, 0x80001008, 0x8000100C, false),
    (.blez 1 4, 0, 0, 0x80001004, 0x80001014, true), (.blez 1 4, 1, 0, 0x80001004, 0x80001008, true),
    (.bgtz 1 4, 0, 0, 0x80001004, 0x80001008, true), (.bgtz 1 4, 1, 0, 0x80001004, 0x80001014, true),
    (.bltz 1 4, 0, 0, 0x80001004, 0x80001008, true), (.bltz 1 4, 0x80000000, 0, 0x80001004, 0x80001014, true),
    (.bgez 1 4, 0, 0, 0x80001004, 0x80001014, true), (.bgez 1 4, 0x80000000, 0, 0x80001004, 0x80001008, true),
    (.blezl 1 4, 1, 0, 0x80001008, 0x8000100C, false), (.bgtzl 1 4, 0, 0, 0x80001008, 0x8000100C, false),
    (.bltzl 1 4, 0, 0, 0x80001008, 0x8000100C, false), (.bgezl 1 4, 0xFFFFFFFF, 0, 0x80001008, 0x8000100C, false),
    (.j 0x123456, 0, 0, 0x80001004, 0x8048D158, true), (.jr 1, 0x12345678, 0, 0x80001004, 0x12345678, true)] :
      List (Instr × Word × Word × Word × Word × Bool)),
    sees p.1 (two p.2.1 p.2.2.1) control = some p.2.2.2 := by
  decide +kernel

/-- Rows of spec/95_test_vectors.md 2.6, the linking forms: r1 before; pc, npc and the slot after, and the link. -/
theorem test_link_results : ∀ p ∈ ([
    (.bltzal 1 4, 0xFFFFFFFF, 0x80001004, 0x80001014, true), (.bgezal 1 4, 0, 0x80001004, 0x80001014, true),
    (.bltzall 1 4, 0, 0x80001008, 0x8000100C, false), (.bgezall 1 4, 0xFFFFFFFF, 0x80001008, 0x8000100C, false),
    (.jal 0x3FFFFFF, 0, 0x80001004, 0x8FFFFFFC, true), (.jalr 1 31, 0xA0000100, 0x80001004, 0xA0000100, true)] :
      List (Instr × Word × Word × Word × Bool)),
    sees p.1 (two p.2.1 0) (fun t => (control t, t.readGpr 31)) = some (p.2.2, 0x80001008) := by
  decide +kernel

/-- Rows of spec/95_test_vectors.md 2.6 and 2.2, the forms refused: U8, U1 and U5. -/
theorem test_refused_forms :
    exec (.bgezal 31 4) base = .refused .linkRegisterIsSource ∧ exec (.jalr 1 1) base = .refused .linkRegisterIsSource
    ∧ exec (.beq 0 0 4) { base with inDelaySlot := true } = .refused .controlInDelaySlot
    ∧ exec (.clz 1 2 3) base = .refused .countRegistersDiffer := by
  exact ⟨rfl, rfl, rfl, rfl⟩

/-- Rows of spec/95_test_vectors.md 2.7: the traps that trap, r1 and r2 before. -/
theorem test_traps_taken : ∀ p ∈ ([(.tge 1 2 0x155, 0, 0), (.tgeu 1 2 0x155, 0x80000000, 0),
    (.tlt 1 2 0x155, 0x80000000, 0), (.tltu 1 2 0x155, 0, 0x80000000), (.teq 1 2 0x155, 5, 5), (.tne 1 2 0x155, 5, 6),
    (.tgei 1 0xFFFF, 0, 0), (.tgeiu 1 0xFFFF, 0xFFFFFFFF, 0), (.tlti 1 0xFFFF, 0xFFFFFFFE, 0),
    (.tltiu 1 0xFFFF, 0, 0), (.teqi 1 0x8000, 0xFFFF8000, 0), (.tnei 1 0x8000, 0x8000, 0)] :
      List (Instr × Word × Word)),
    sees p.1 (two p.2.1 p.2.2) entry = some (0x80001000, 0x34, 0x80000180) := by
  decide +kernel

/-- The same relations the other way: nothing but the pc moves (spec/46_special.md R254 to R265). -/
theorem test_traps_not_taken : ∀ p ∈ ([(.tge 1 2 0, 0x80000000, 0), (.tgeu 1 2 0, 0, 1), (.tlt 1 2 0, 0, 0x80000000),
    (.tltu 1 2 0, 0x80000000, 0), (.teq 1 2 0, 5, 6), (.tne 1 2 0, 5, 5), (.tgei 1 0xFFFF, 0xFFFFFFFE, 0),
    (.tgeiu 1 0xFFFF, 0, 0), (.tlti 1 0xFFFF, 0, 0), (.tltiu 1 0xFFFF, 0xFFFFFFFF, 0), (.teqi 1 0x8000, 0x8000, 0),
    (.tnei 1 0x8000, 0xFFFF8000, 0)] : List (Instr × Word × Word)),
    sees p.1 (two p.2.1 p.2.2) entry = some (0, 0, 0x80001004) := by
  decide +kernel

/-- The examples of spec/46_special.md R250, R251, R252; and R355's two returns of ERET. -/
theorem test_special_results :
    sees (.syscall 0xABCDE) base entry = some (0x80001000, 0x20, 0x80000180)
    ∧ sees (.brk 7) base entry = some (0x80001000, 0x24, 0x80000180)
    ∧ sees (.sync 0) base control = some (0x80001004, 0x80001008, false)
    ∧ sees .eret { base with cp0 := { base.cp0 with epc := 0x1000, status := 2 } } (fun t => (t.pc, t.cp0.status))
        = some (0x1000, 0)
    ∧ sees .eret { base with cp0 := { base.cp0 with errorEpc := 0x2000, epc := 0x1000, status := 6 } }
        (fun t => (t.pc, t.cp0.status)) = some (0x2000, 2) := by
  decide +kernel

/-- The TLB of spec/95_test_vectors.md 2.8. -/
def tlb28 : State :=
  { base with
    tlb := (base.tlb.set 0 ⟨0, 0x200, false, 1, ⟨3, 2, true, true⟩, ⟨4, 2, false, true⟩⟩).set 3
      ⟨0, 0x300, true, 7, ⟨0x10, 3, true, true⟩, ⟨0x11, 3, true, true⟩⟩ }

/-- Rows of spec/95_test_vectors.md 2.8: moves to and from CP0. -/
theorem test_cp0_moves :
    sees (.mfc0 3 14) { base with cp0 := { base.cp0 with epc := 0x12345678 } } (fun t => (t.readGpr 3, t.loadPending))
      = some (0x12345678, some 3)
    ∧ sees (.mfc0 3 12) (withStatus base 0x10400004) (·.readGpr 3) = some 0x10400004
    ∧ sees (.mtc0 1 12) (two 0xFFFFFFF7 0) (·.cp0.status) = some 0xFA78FF17
    ∧ sees (.mtc0 1 13) (two 0xFFFFFFFF 0) (·.cp0.cause) = some 0x00C00300 := by
  decide +kernel

/-- Rows of spec/95_test_vectors.md 2.8: TLBP, TLBWI, and WAIT by spec/47_cp0.md R277. -/
theorem test_tlb_instructions :
    sees .tlbp { tlb28 with cp0 := { tlb28.cp0 with entryHi := 0x600099 } } (·.cp0.index) = some 3
    ∧ sees .tlbp { tlb28 with cp0 := { tlb28.cp0 with entryHi := 0x400002 } } (·.cp0.index) = some 0x80000000
    ∧ sees .tlbwi { tlb28 with
          cp0 := { tlb28.cp0 with index := 2, entryHi := 0x802005, entryLo0 := 0x147, entryLo1 := 0x186 } }
        (fun t => t.tlb[2]?) = some (some ⟨0, 0x401, false, 5, ⟨5, 0, true, true⟩, ⟨6, 0, true, true⟩⟩)
    ∧ sees (.wait 0) base (fun t => (t.waiting, t.pc)) = some (true, 0x80001004) := by
  decide +kernel

/-- With no mask, nothing of what TLBR reads back is free. -/
theorem underMask_zero (n : Nat) (v d : BitVec n) : underMask n 0 v d = v := by
  simp [underMask]

/-- The row of spec/95_test_vectors.md 2.8: TLBR of entry 3. -/
theorem test_tlbr : sees .tlbr { tlb28 with cp0 := { tlb28.cp0 with index := 3 } }
    (fun t => (t.cp0.pageMask, t.cp0.entryHi, t.cp0.entryLo0, t.cp0.entryLo1)) = some (0, 0x600007, 0x41F, 0x45F) := by
  have h : exec .tlbr { tlb28 with cp0 := { tlb28.cp0 with index := 3 } } = .next
      { State.retire { tlb28 with cp0 := { tlb28.cp0 with index := 3 } } [] with
        cp0 := State.regsFromEntry { tlb28 with cp0 := { tlb28.cp0 with index := 3 } }
          ⟨0, 0x300, true, 7, ⟨0x10, 3, true, true⟩, ⟨0x11, 3, true, true⟩⟩ } := rfl
  simp only [sees, h, State.regsFromEntry, State.pageRead, underMask_zero]
  decide +kernel

/-- Rows of spec/95_test_vectors.md 2.9 and 2.10: Address Error, TLB Refill, Reserved Instruction, Coprocessor Unusable. -/
theorem test_exceptions :
    sees (.lw 1 3 2) (two 0x80002000 0) (fun t => (entry t, t.cp0.badVAddr))
      = some ((0x80001000, 0x10, 0x80000180), 0x80002002)
    ∧ sees (.sw 1 3 0) (two 0x00402004 0) (fun t => (entry t, t.cp0.badVAddr, t.cp0.entryHi))
      = some ((0x80001000, 0x0C, 0x80000000), 0x00402004, 0x00402000)
    ∧ sees (.mfc0 3 12) (withStatus base 0x10) entry = some (0x80001000, 0x2C, 0x80000180)
    ∧ sees (.addS 0 0 0) base entry = some (0x80001000, 0x1000002C, 0x80000180) := by
  decide +kernel

/-! ## The FPU -/

/-- CU1 set, f2 and f4 holding words just loaded, FCSR as given. -/
def fpu (a b fcsr : Word) : State :=
  { withStatus ((base.storeFpr32 2 a .rawWord).storeFpr32 4 b .rawWord) 0x20000000 with fcsr := fcsr }

/-- CU1 set, the pairs f2 and f4 holding doubles. -/
def fpuD (a b : DWord) : State := withStatus ((base.storeFpr64 2 a .d).storeFpr64 4 b .d) 0x20000000

/-- Rows of spec/96_test_vectors_fpu_programs.md 2.13, single format: FCSR, f2, f4 before; f6 and FCSR after. -/
theorem test_fpu_single : ∀ p ∈ ([
    (.addS 4 2 6, 0, 0x3F800000, 0x33800000, 0x3F800000, 0x1004), (.subS 4 2 6, 0, 0x40100000, 0x3FC00000, 0x3F400000, 0),
    (.mulS 4 2 6, 0, 0x40400000, 0xC0000000, 0xC0C00000, 0), (.divS 4 2 6, 0, 0x3F800000, 0x40400000, 0x3EAAAAAB, 0x1004),
    (.sqrtS 2 6, 0, 0x40800000, 0, 0x40000000, 0), (.absS 2 6, 0, 0xBF800000, 0, 0x3F800000, 0),
    (.negS 2 6, 0, 0x3F800000, 0, 0xBF800000, 0), (.movS 2 6, 0, 0x7FC00000, 0, 0x7FC00000, 0),
    (.cvtWS 2 6, 2, 0x40200000, 0, 3, 0x1006), (.cvtWS 2 6, 0, 0x4F000000, 0, 0x7FFFFFFF, 0x10040),
    (.roundWS 2 6, 0, 0x40200000, 0, 2, 0x1004), (.truncWS 2 6, 0, 0x40200000, 0, 2, 0x1004),
    (.ceilWS 2 6, 0, 0x40200000, 0, 3, 0x1004), (.floorWS 2 6, 0, 0x40200000, 0, 2, 0x1004),
    (.cvtSW 2 6, 0, 0x01000001, 0, 0x4B800000, 0x1004), (.cvtSW 2 6, 1, 0x7FFFFFFF, 0, 0x4EFFFFFF, 0x1005),
    (.movfS 0 2 6, 0, 0x3F800000, 0, 0x3F800000, 0), (.movtS 0 2 6, 0x800000, 0x3F800000, 0, 0x3F800000, 0x800000),
    (.movnS 3 2 6, 0, 0x3F800000, 0, 0x3F800000, 0), (.movzS 0 2 6, 0, 0x3F800000, 0, 0x3F800000, 0)] :
      List (Instr × Word × Word × Word × Word × Word)),
    sees p.1 (fpu p.2.2.1 p.2.2.2.1 p.2.1) (fun t => (t.readFpr 6, t.fcsr)) = some p.2.2.2.2 := by
  decide +kernel

/-- Rows of spec/96_test_vectors_fpu_programs.md 2.13, double format: the pairs f2 and f4 before, f6's after. -/
theorem test_fpu_double : ∀ p ∈ ([(.cvtDS 2 6, fpu 0x3FC00000 0 0, 0x3FF8000000000000),
    (.cvtDW 2 6, fpu 0x7FFFFFFF 0 0, 0x41DFFFFFFFC00000), (.addD 4 2 6, fpuD 0x3FF0000000000000 0x3FF0000000000000, 0x4000000000000000),
    (.subD 4 2 6, fpuD 0x4000000000000000 0x3FF0000000000000, 0x3FF0000000000000),
    (.mulD 4 2 6, fpuD 0xC000000000000000 0x4000000000000000, 0xC010000000000000),
    (.divD 4 2 6, fpuD 0x3FF0000000000000 0x4000000000000000, 0x3FE0000000000000),
    (.sqrtD 2 6, fpuD 0x4010000000000000 0, 0x4000000000000000), (.absD 2 6, fpuD 0xBFF0000000000000 0, 0x3FF0000000000000),
    (.negD 2 6, fpuD 0x3FF0000000000000 0, 0xBFF0000000000000), (.movD 2 6, fpuD 0x3FF0000000000001 0, 0x3FF0000000000001),
    (.movfD 0 2 6, fpuD 0x3FF0000000000001 0, 0x3FF0000000000001), (.movnD 3 2 6, fpuD 0x3FF0000000000001 0, 0x3FF0000000000001),
    (.movzD 0 2 6, fpuD 0x3FF0000000000001 0, 0x3FF0000000000001)] : List (Instr × State × DWord)),
    sees p.1 p.2.1 (·.readFpr64 6) = some p.2.2 := by
  decide +kernel

/-- Rows of spec/96_test_vectors_fpu_programs.md 2.13, double to word and to single: f6 and FCSR after. -/
theorem test_fpu_narrowing : ∀ p ∈ ([(.truncWD 2 6, 0xC1E0000000100000, 0x80000000, 0x1004),
    (.floorWD 2 6, 0xC1E0000000100000, 0x7FFFFFFF, 0x10040), (.cvtWD 2 6, 0x41DFFFFFFFE00000, 0x7FFFFFFF, 0x10040),
    (.roundWD 2 6, 0x400C000000000000, 4, 0x1004), (.ceilWD 2 6, 0xC004000000000000, 0xFFFFFFFE, 0x1004),
    (.cvtSD 2 6, 0x47F0000000000000, 0x7F800000, 0x5014), (.cvtSD 2 6, 0x3690000000000000, 0, 0x300C)] :
      List (Instr × DWord × Word × Word)),
    sees p.1 (fpuD p.2.1 0) (fun t => (t.readFpr 6, t.fcsr)) = some p.2.2 := by
  decide +kernel

/-- Rows of spec/96_test_vectors_fpu_programs.md 2.13, compares: f2 and f4 before, FCSR after. -/
theorem test_fpu_compare_results : ∀ p ∈ ([(.cEqS 4 2 0, 0, 0x80000000, 0x800000), (.cEqS 4 2 0, 0x7FC00000, 0x3F800000, 0x10040),
    (.cLtS 4 2 0, 0xFF800000, 0x7F800000, 0x800000), (.cLtS 4 2 0, 0x7FBFFFFF, 0x3F800000, 0x10040),
    (.cUnS 4 2 1, 0x7FBFFFFF, 0x3F800000, 0x2000000), (.cUeqS 4 2 0, 0x7FBFFFFF, 0x3F800000, 0x800000),
    (.cUltS 4 2 2, 0x3F800000, 0x40000000, 0x4000000), (.cNgeS 4 2 0, 0x7FBFFFFF, 0x3F800000, 0x810040)] :
      List (Instr × Word × Word × Word)),
    sees p.1 (fpu p.2.1 p.2.2.1 0) (·.fcsr) = some p.2.2.2 := by
  decide +kernel

/-- Rows of spec/96_test_vectors_fpu_programs.md 2.12 and 2.13: moves, a trapped compare, branches on a condition code. -/
theorem test_fpu_moves_and_branches :
    sees (.mtc1 3 2) (fpu 0 0 0) (fun t => (t.readFpr 2, t.tagOf 2)) = some (0x33333333, .rawWord)
    ∧ sees (.mfc1 3 2) (fpu 0xDEADBEEF 0 0) (fun t => (t.readGpr 3, t.loadPending)) = some (0xDEADBEEF, none)
    ∧ sees (.cNgeS 4 2 0) (fpu 0x7FBFFFFF 0x3F800000 0x800) (fun t => (entry t, t.fcsr))
        = some ((0x80001000, 0x3C, 0x80000180), 0x10800)
    ∧ sees (.bc1t 7 0xFFFF) (fpu 0 0 0x80000000) control = some (0x80001004, 0x80001000, true)
    ∧ sees (.bc1f 0 4) (fpu 0 0 0) control = some (0x80001004, 0x80001014, true)
    ∧ sees (.bc1fl 0 4) (fpu 0 0 0x800000) control = some (0x80001008, 0x8000100C, false)
    ∧ sees (.bc1tl 0 4) (fpu 0 0 0) control = some (0x80001008, 0x8000100C, false) := by
  decide +kernel

/-- Rows of spec/96_test_vectors_fpu_programs.md 2.12, loads and stores, in big-endian memory; CFC1 and CTC1 by
spec/48_fpu_move.md R288, R289. -/
theorem test_fpu_memory_and_control :
    sees (.lwc1 1 2 0) (withStatus memory25 0x20000000) (fun t => (t.readFpr 2, t.tagOf 2)) = some (0x807FFF01, .rawWord)
    ∧ sees (.ldc1 1 2 0) (withStatus memory25 0x20000000) (fun t => (t.readFpr 3, t.readFpr 2))
        = some (0x807FFF01, 0x90A0B0C0)
    ∧ sees (.swc1 1 2 4) { fpu 0xAABBCCDD 0 0 with gpr := memory25.gpr } (·.wordAt 0x2004) = some 0xAABBCCDD
    ∧ sees (.sdc1 1 2 0) { fpuD 0x1122334455667788 0 with gpr := memory25.gpr } (·.dwordAt 0x2000)
        = some 0x1122334455667788
    ∧ sees (.cfc1 3 25) (fpu 0 0 0x82800000) (·.readGpr 3) = some 0x83
    ∧ sees (.ctc1 3 31) ((fpu 0 0 0).writeGpr 3 0x00000F83) (·.fcsr) = some 0x00000F83 := by
  decide +kernel

/-! ## Whole steps -/

/-- From reset, with ORI r3, r0, 0x8001 placed where the first fetch reads: r3 and the pc after one step
(spec/70_reset_and_hazards.md R380). -/
theorem test_step_from_reset :
    (match step (State.reset.withFetchWord 32 0x34038001) with
      | .next t => some (t.readGpr 3, t.pc)
      | .fault _ => none
      | .refused _ => none) = some (0x8001, 0xBFC00004) := by
  decide +kernel

/-- Rows of spec/95_test_vectors.md 2.9: a word that is no instruction, in a step. -/
theorem test_step_reserved : ∀ p ∈ ([(0xFC000000, 0x28), (1, 0x28), (0x00221860, 0x28), (0x48000000, 0x28),
    (0x46E00000, 0x1000002C)] : List (Nat × Word)),
    (match step (base.withFetchWord 32 p.1) with
      | .next t => some (entry t)
      | .fault _ => none
      | .refused _ => none) = some (0x80001000, p.2, 0x80000180) := by
  decide +kernel

/-- An interrupt line that Status does not mask is taken before the instruction (spec/60_exceptions.md R361, R362). -/
theorem test_step_interrupt :
    (match step { withStatus base 0x00000401 with env := [⟨1, .none, []⟩] } with
      | .next t => some (entry t)
      | .fault _ => none
      | .refused _ => none) = some (0x80001000, 0x400, 0x80000180) := by
  decide +kernel

/-- Count equal to Compare raises IP7 (spec/60_exceptions.md R368), here as reset leaves them. -/
theorem test_timer_equal :
    (State.sample { base with cfg := { base.cfg with hasTimer := true } }).cp0.cause = 0x8000 := by decide +kernel

/-- Reset puts the PC it interrupted into ErrorEPC (spec/10_state.md R45), in a delay slot too. -/
theorem test_reset_pc :
    (match step { base with inDelaySlot := true, env := [⟨0, .reset, []⟩] } with
      | .next t => some (t.cp0.errorEpc, t.pc)
      | .fault _ => none
      | .refused _ => none) = some (0x80001000, 0xBFC00000) := by
  decide +kernel

/-- Config.BE follows BigEndianMem (spec/10_state.md R48). -/
theorem test_config_be :
    (State.resetWith { Params.default with bigEndianMem := false } 16).cp0.config = 0x80000080
    ∧ State.reset.cp0.config = 0x80008080 := by
  decide +kernel

/-- Words rejected at an address where bytes are accepted (spec/20_memory.md R60). -/
theorem test_hole_width :
    let s : State := { base with cfg := { base.cfg with physHoles := [⟨0x100, 4, [4], false, true, false⟩] } }
    s.admits 0x100 4 .load = false ∧ s.admits 0x100 1 .load = true ∧ s.admits 0x100 4 .fetch = true
      ∧ s.admits 0x104 4 .load = true := by
  decide +kernel

/-! ## States and operands that meet the hypotheses of the statements

One theorem for each statement that has hypotheses, named after it: its clauses in their order, at the ends of their
ranges. -/

/-- User mode, otherwise the base. -/
def user : State := withStatus base 0x10

/-- Every byte above the first 16 rejected. -/
def holed : State := { base with cfg := { base.cfg with physHoles := [⟨16, 0x100000000, [1, 2, 4, 8], true, true, true⟩] } }

/-- A TLB with pages that are valid and dirty, not dirty, not valid, of 16 KB, and an address matched twice. -/
def paged : State :=
  { base with
    tlb := [⟨0, 0x200, false, 1, ⟨3, 2, true, true⟩, ⟨4, 2, false, true⟩⟩,
      ⟨3, 0x400, true, 0, ⟨0x10, 3, true, false⟩, ⟨0x14, 3, true, true⟩⟩,
      ⟨0, 0x300, true, 0, ⟨1, 2, true, true⟩, ⟨1, 2, true, true⟩⟩,
      ⟨0, 0x300, true, 0, ⟨2, 2, true, true⟩, ⟨2, 2, true, true⟩⟩]
    cp0 := { base.cp0 with entryHi := 1 } }

theorem witness_OverflowTrapsExactly :
    (-2 ^ 31 ≤ ((two 0x7FFFFFFE 1).srcRs 1).toInt + ((two 0x7FFFFFFE 1).srcRt 2).toInt
      ∧ ((two 0x7FFFFFFE 1).srcRs 1).toInt + ((two 0x7FFFFFFE 1).srcRt 2).toInt = 2 ^ 31 - 1)
    ∧ 2 ^ 31 - 1 < ((two 0x7FFFFFFF 1).srcRs 1).toInt + ((two 0x7FFFFFFF 1).srcRt 2).toInt
    ∧ ((two 0x80000001 1).srcRs 1).toInt - ((two 0x80000001 1).srcRt 2).toInt = -2 ^ 31
    ∧ ((two 0x80000000 1).srcRs 1).toInt - ((two 0x80000000 1).srcRt 2).toInt < -2 ^ 31
    ∧ ((two 0x80000000 0).srcRs 1).toInt + (0xFFFF#16).toInt < -2 ^ 31 := by
  decide +kernel

theorem witness_LeadingBitCounts : ((3 : Reg) = 3) ∧ ((2 : Reg) ≠ 3) ∧ (0 < 32 ∧ (0 : Nat) ≤ 32) := by decide

theorem witness_ConditionalMoves : decide ((two 7 1).srcRt 2 ≠ 0) = true ∧ decide ((two 7 0).srcRt 2 ≠ 0) = false := by
  decide +kernel

theorem witness_OperandForms :
    (0 : Reg) = 0 ∧ State.loadPending { base with loadPending := some 3 } ≠ some 31
    ∧ ((3 : Reg) ≠ 0 ∧ State.loadPending { base with loadPending := some 3 } = some 3) := by
  decide +kernel

/-- One MFHI or MFLO in the window, in none of these registers: a writer undoes none of them. -/
theorem undoesNoneOf_of (s : State) (e : HiLoRead) (h1 : s.hist1 = some e) (h2 : s.hist2 = none)
    (hi lo : Bool) (regs : List Reg) (hr : e.rd ∉ regs) : UndoesNoneOf s hi lo regs := by
  rintro f ⟨h | h, -⟩
  · rw [h1] at h; cases h; exact hr
  · rw [h2] at h; cases h

/-- The state in which the next instruction runs, with quiet inputs. -/
def begun (s : State) : State := { s with draws := s.draws + 1 }

/-- A window with an MFHI to r5. -/
def window : State := { two 7 2 with hist1 := some ⟨true, 5⟩, hi := 1, lo := 2 }

/-- The same, with these words from pc on. -/
def windowAt (a b c d : Word) : State :=
  (((window.setWord 0x1000 a).setWord 0x1004 b).setWord 0x1008 c).setWord 0x100C d

/-- After a step that begins and ends, if it does. -/
def after (s : State) : State :=
  match s.begin with
  | .done t => t
  | .run u =>
    match runInstr u with
    | .next t => t
    | .fault _ => u
    | .refused _ => u

theorem witness_MultiplyResults : UndoesNoneOf window true true [1, 2] :=
  undoesNoneOf_of window ⟨true, 5⟩ rfl rfl true true [1, 2] (by decide)

theorem witness_DivideResults :
    UndoesNoneOf window true true [1, 2]
    ∧ (window.srcRt 2 ≠ 0 ∧ ¬ (window.srcRs 1 = 0x80000000 ∧ window.srcRt 2 = 0xFFFFFFFF))
    ∧ ((two 0x80000000 0xFFFFFFFF).srcRs 1 = 0x80000000 ∧ (two 0x80000000 0xFFFFFFFF).srcRt 2 = 0xFFFFFFFF)
    ∧ (two 7 0).srcRt 2 = 0 :=
  ⟨witness_MultiplyResults, by decide +kernel, by decide +kernel, by decide +kernel⟩

theorem witness_HiLoMoves :
    UndoesNoneOf window true false [1] ∧ UndoesNoneOf window false true [1] ∧ window.pairFresh = false :=
  ⟨undoesNoneOf_of window ⟨true, 5⟩ rfl rfl true false [1] (by decide),
    undoesNoneOf_of window ⟨true, 5⟩ rfl rfl false true [1] (by decide), rfl⟩

/-- ADDU r6, r5, r5, then MULT r1, r2, then ADDU again. -/
def twoThenWriter : State := windowAt 0x00A53021 0x00220018 0x00A53021 0

/-- BNEL r0, r0 (not taken), MULT in its slot, ADDU after it. -/
def nullifiedWriter : State := windowAt 0x54000001 0x00220018 0x00A53021 0x00A53021

/-- The next state, if there is one. -/
def nextOf : Host.Outcome State Fault Refusal → Option State
  | .next t => some t
  | .fault _ => none
  | .refused _ => none

theorem next_of {o : Host.Outcome State Fault Refusal} {t : State} (h : nextOf o = some t) : o = .next t := by
  cases o <;> simp [nextOf] at h
  exact h ▸ rfl

theorem witness_HiLoWindow :
    (3 : Reg) ≠ 0
    ∧ (window.hist1 = some ⟨true, 5⟩ ∧ (HiLoRead.mk true 5).rd ≠ 0)
    ∧ ((windowAt 0x00220018 0 0 0).hist1 = some ⟨true, 5⟩
      ∧ (windowAt 0x00220018 0 0 0).begin = .run (begun (windowAt 0x00220018 0 0 0)))
    ∧ (begun (windowAt 0x00220018 0 0 0)).nextInstr = .ok (.mult 1 2)
    ∧ (twoThenWriter.begin = .run (begun twoThenWriter) ∧ (after twoThenWriter).begin = .run (begun (after twoThenWriter)))
    ∧ (begun twoThenWriter).nextInstr = .ok (.addu 5 5 6) ∧ (begun (after twoThenWriter)).nextInstr = .ok (.mult 1 2)
    ∧ (nullifiedWriter.begin = .run (begun nullifiedWriter)
      ∧ (after nullifiedWriter).begin = .run (begun (after nullifiedWriter)))
    ∧ (begun nullifiedWriter).nextInstr = .ok (.bnel 0 0 1)
    ∧ (begun (after nullifiedWriter)).nextInstr = .ok (.addu 5 5 6)
    ∧ exec (.addu 5 5 6) (begun twoThenWriter) = .next (after twoThenWriter)
    ∧ exec (.bnel 0 0 1) (begun nullifiedWriter) = .next (after nullifiedWriter)
    ∧ exec (.addu 5 5 6) ((begun twoThenWriter).marked true)
        = .next { after twoThenWriter with hist1 := none, hist2 := some ⟨true, 0⟩ } := by
  refine ⟨by decide, ⟨rfl, by decide⟩, ⟨rfl, by decide +kernel⟩, rfl, ⟨by decide +kernel, by decide +kernel⟩, rfl, rfl,
    ⟨by decide +kernel, by decide +kernel⟩, rfl, rfl, next_of (by decide +kernel),
    next_of (by decide +kernel), next_of (by decide +kernel)⟩

/-- What r5 holds after a step. -/
def stepR5 (s : State) : Option Word :=
  match step s with
  | .next t => some (t.readGpr 5)
  | .fault _ => none
  | .refused _ => none

/-- MFHI r5, an instruction that reads r5, MULT: r5 is free from the MFHI on (R214). -/
theorem test_step_mfhi_undone :
    stepR5 (windowAt 0x00002810 0x00A53021 0x00220018 0) = some ((Config.draw .window1 1).setWidth 32) := by
  rfl

/-- MFHI r5, BNEL not taken, a nullified MULT in its slot: r5 is HI (R27, R214). -/
theorem test_step_mfhi_nullified_writer :
    stepR5 (windowAt 0x00002810 0x54000001 0x00220018 0x00A53021 |>.setWord 0x1010 0x00A53021) = some 1 := by
  rfl

/-- MFHI r5, SYSCALL, and a MULT after it that is not executed: r5 is HI (R214, R352). -/
theorem test_step_mfhi_exception :
    stepR5 (((windowAt 0x00002810 0x0000000C 0x00220018 0).setWord 0x180 0x00A53021).setWord 0x184 0x00A53021) = some 1 := by
  rfl

/-- MULT right after MFHI r5 runs, and r5 is free (R214). -/
theorem test_mult_in_window :
    (match exec (.mult 1 2) window with
      | .next t => some (t.hi, t.lo, t.readGpr 5)
      | .fault _ => none
      | .refused _ => none) = some (0, 14, (Config.draw .window1 window.draws).setWidth 32) := by
  rfl

theorem witness_SegmentMap :
    ((0x7FFFFFFF : Word).toNat < 2 ^ 31 ∧ (withStatus base 4).cp0.erl = true)
    ∧ (Mapped base 0 ∧ Mapped base 0x7FFFFFFF ∧ Mapped base 0xC0000000 ∧ Mapped base 0xFFFFFFFF)
    ∧ (2 ^ 31 ≤ (0x80000000 : Word).toNat ∧ user.userMode = true)
    ∧ (2 ^ 31 ≤ (0x80000000 : Word).toNat ∧ (0x9FFFFFFF : Word).toNat < 0xA0000000 ∧ base.userMode = false)
    ∧ (0xA0000000 ≤ (0xA0000000 : Word).toNat ∧ (0xBFFFFFFF : Word).toNat < 0xC0000000)
    ∧ ((0xA0000001 : Word).toNat % 2 ≠ 0 ∧ (0xA0000004 : Word).toNat % 4 = 0) := by
  unfold Mapped
  decide +kernel

/-- The three ways a translation ends, for the last clauses of SegmentMap. -/
theorem witness_SegmentMap_located :
    base.translate 0xA0000004 .load = .ok (4, 2) ∧ user.translate 0x80000000 .load = .exc (.addressError 0x80000000 .load)
    ∧ paged.translate 0x600000 .load = .stop .tlbMultipleMatch := by
  refine ⟨rfl, rfl, rfl⟩

theorem witness_TlbTranslation :
    paged.tlbHits 0x7FFFE000 = []
    ∧ paged.tlbHits 0x600000
        = [⟨0, 0x300, true, 0, ⟨1, 2, true, true⟩, ⟨1, 2, true, true⟩⟩, ⟨0, 0x300, true, 0, ⟨2, 2, true, true⟩, ⟨2, 2, true, true⟩⟩]
    ∧ (paged.tlbHits 0x400000 = [⟨0, 0x200, false, 1, ⟨3, 2, true, true⟩, ⟨4, 2, false, true⟩⟩]
        ∧ (0#16).toNat = 2 ^ 0 - 1 ∧ (TlbPage.mk 3 2 true true).v = true ∧ (TlbPage.mk 3 2 true true).d = true
        ∧ paged.cfg.psize ≤ 36)
    ∧ (paged.tlbHits 0x401FFF = [⟨0, 0x200, false, 1, ⟨3, 2, true, true⟩, ⟨4, 2, false, true⟩⟩]
        ∧ (0x401FFF : Word).toNat / 2 ^ 12 % 2 = 1 ∧ (TlbPage.mk 4 2 false true).d = false)
    ∧ (paged.tlbHits 0x803FFF = [⟨3, 0x400, true, 0, ⟨0x10, 3, true, false⟩, ⟨0x14, 3, true, true⟩⟩]
        ∧ (3#16).toNat = 2 ^ 2 - 1 ∧ (0x803FFF : Word).toNat / 2 ^ 14 % 2 = 0 ∧ (TlbPage.mk 0x10 3 true false).v = false)
    ∧ (0xFFFF#16).toNat = 2 ^ 16 - 1 := by
  decide +kernel

theorem witness_MemoryBytes : Memory.wf memory25.mem = true := by decide +kernel

theorem witness_LoadResults :
    ((two 0x9FFFFFFF 0).locate ((two 0x9FFFFFFF 0).effAddr 1 0) 1 .load = .ok 0x1FFFFFFF
      ∧ (two 0x9FFFFFFF 0).admits
          (if (two 0x9FFFFFFF 0).reverseEndian then 0x1FFFFFFF#36 ^^^ 3 else 0x1FFFFFFF#36).toNat 1 .load = true)
    ∧ ((two 0xA0000000 0).locate ((two 0xA0000000 0).effAddr 1 0) 2 .load = .ok 0
      ∧ (two 0xA0000000 0).admits (if (two 0xA0000000 0).reverseEndian then 0#36 ^^^ 2 else 0#36).toNat 2 .load = true)
    ∧ ((two 0xC0000000 0).locate ((two 0xC0000000 0).effAddr 1 0xFFFC) 4 .load = .ok 0x1FFFFFFC
      ∧ (two 0xC0000000 0).admits (0x1FFFFFFC#36).toNat 4 .load = true) := by
  refine ⟨⟨rfl, ?_⟩, ⟨rfl, ?_⟩, ⟨rfl, ?_⟩⟩ <;> decide +kernel

theorem witness_UnalignedLoads :
    (two 0x80002000 0).locate ((two 0x80002000 0).effAddr 1 3) 1 .load = .ok 0x2003
      ∧ (two 0x80002000 0).admits (wordPlace 0x2003).toNat 4 .load = true := by
  refine ⟨rfl, ?_⟩
  decide +kernel

theorem witness_StoreResults :
    ((two 0x9FFFFFFF 0).locate ((two 0x9FFFFFFF 0).effAddr 1 0) 1 .store = .ok 0x1FFFFFFF
      ∧ (two 0x9FFFFFFF 0).admits
          (if (two 0x9FFFFFFF 0).reverseEndian then 0x1FFFFFFF#36 ^^^ 3 else 0x1FFFFFFF#36).toNat 1 .store = true)
    ∧ ((two 0xA0000000 0).locate ((two 0xA0000000 0).effAddr 1 0) 2 .store = .ok 0
      ∧ (two 0xA0000000 0).admits (if (two 0xA0000000 0).reverseEndian then 0#36 ^^^ 2 else 0#36).toNat 2 .store = true)
    ∧ ((two 0x80002000 0).locate ((two 0x80002000 0).effAddr 1 4) 4 .store = .ok 0x2004
      ∧ (two 0x80002000 0).admits (0x2004#36).toNat 4 .store = true) := by
  refine ⟨⟨rfl, ?_⟩, ⟨rfl, ?_⟩, ⟨rfl, ?_⟩⟩ <;> decide +kernel

theorem witness_UnalignedStores :
    (two 0x80002000 0).locate ((two 0x80002000 0).effAddr 1 3) 1 .store = .ok 0x2003
      ∧ (two 0x80002000 0).admits (wordPlace 0x2003).toNat 4 .store = true := by
  refine ⟨rfl, ?_⟩
  decide +kernel

/-- A link at 0x2000, 511 words before the SC. -/
def linked : State :=
  { two 0x80002000 0 with
    llBit := true, llAddr := 0x2000, llVa := 0x80002000, llLo := 0x80000804, llHi := 0x80000804 }

theorem witness_StoreConditional :
    ((two 0x80002000 0).locate ((two 0x80002000 0).effAddr 1 0) 4 .store = .ok 0x2000
      ∧ (two 0x80002000 0).llBit = false)
    ∧ (linked.locate (linked.effAddr 1 0) 4 .store = .ok 0x2000 ∧ linked.llBit = true ∧ 0x80002000 = linked.llVa
      ∧ 0x2000 = linked.llAddr ∧ linked.attribute 0x80002000 .store = linked.llAttr
      ∧ linked.linkExtentOk = true ∧ linked.admits (0x2000#36).toNat 4 .store = true)
    ∧ (linked.locate (linked.effAddr 1 4) 4 .store = .ok 0x2004
      ∧ linked.admits (0x2004#36).toNat 4 .store = true) := by
  refine ⟨⟨rfl, ?_⟩, ⟨rfl, ?_⟩, ⟨rfl, ?_⟩⟩ <;> decide +kernel

/-- Through the uncached alias of the LL's address the outcome of SC is the free bit (R84(c)). -/
theorem test_sc_alias :
    linked.scSucceeds 0x80002000 0x2000 = true ∧ linked.scSucceeds 0xA0002000 0x2000 = linked.freeBit .scOutcome := by
  refine ⟨by decide +kernel, rfl⟩

theorem witness_AccessFaults :
    ((base.effAddr 0 0x1).toNat % 2 ≠ 0 ∧ (base.effAddr 0 2).toNat % 4 ≠ 0 ∧ (base.effAddr 0 4).toNat % 8 ≠ 0)
    ∧ ((user.effAddr 0 0x8000).toNat % 4 = 0 ∧ user.userMode = true ∧ 2 ^ 31 ≤ (user.effAddr 0 0x8000).toNat)
    ∧ (base.effAddr 0 0 = 0 ∧ Mapped base 0 ∧ base.tlbHits 0 = [])
    ∧ (Mapped paged 0x800000 ∧ ∃ e, paged.tlbHits 0x800000 = [e] ∧ (e.page 0x800000).v = false)
    ∧ (Mapped paged 0x401000 ∧ ∃ e, paged.tlbHits 0x401000 = [e] ∧ (e.page 0x401000).v = true
        ∧ AccessKind.store = .store ∧ (e.page 0x401000).d = false)
    ∧ (Mapped paged 0x600000 ∧ ∃ e f l, paged.tlbHits 0x600000 = e :: f :: l)
    ∧ (holed.locate 0x8000000C 4 .load = .ok 0xC ∧ holed.admits (0xC#36).toNat 4 .load = true)
    ∧ (holed.locate 0x80000010 4 .load = .ok 0x10 ∧ holed.admits ((id 0x10#36)).toNat 4 .load = false)
    ∧ (holed.scSucceeds 0x80000010 0x10 = false
      ∧ State.scSucceeds { holed with
          llBit := true, llAddr := 0x10, llVa := 0x80000010, llLo := holed.pc, llHi := holed.pc } 0x80000010 0x10 = true) := by
  unfold Mapped
  refine ⟨by decide +kernel, by decide +kernel, by decide +kernel, ⟨by decide +kernel, _, rfl, rfl⟩,
    ⟨by decide +kernel, _, rfl, rfl, rfl, rfl⟩, ⟨by decide +kernel, _, _, _, rfl⟩, ⟨rfl, by decide +kernel⟩,
    ⟨rfl, by decide +kernel⟩, by decide +kernel⟩

theorem witness_BranchResults : base.inDelaySlot = false := rfl

theorem witness_LinkAndJump : base.inDelaySlot = false ∧ (30 : Reg) ≠ 31 ∧ (31 : Reg) = 31 ∧ (1 : Reg) ≠ 0 := by
  decide +kernel

theorem witness_ControlInDelaySlotRefused : State.inDelaySlot { base with inDelaySlot := true } = true := rfl

theorem witness_TrapResults :
    decide (((two 5 5).srcRt 2).toInt ≤ ((two 5 5).srcRs 1).toInt) = true
    ∧ decide (((two 5 6).srcRt 2).toInt ≤ ((two 5 6).srcRs 1).toInt) = false := by
  decide +kernel

theorem witness_EretResults :
    State.inDelaySlot { base with inDelaySlot := true } = true
    ∧ (user.inDelaySlot = false ∧ user.cp0Usable = false)
    ∧ (base.inDelaySlot = false ∧ base.cp0Usable = true ∧ base.cp0.erl = false)
    ∧ ((withStatus base 6).cp0Usable = true ∧ (withStatus base 6).cp0.erl = true) := by
  decide +kernel

/-- The state of the witnesses with the timer, Wired at the last entry. -/
def timed : State :=
  { base with cfg := { base.cfg with hasTimer := true }, cp0 := { base.cp0 with wired := 15 } }

theorem inv_timed : timed.Inv := by constructor <;> decide +kernel

theorem witness_Cp0Reads :
    timed.Inv ∧ timed.cp0Usable = true ∧ timed.cfg.hasTimer = true ∧ timed.cp0.wired.toNat < timed.tlbEntries
    ∧ (31 : Reg) ≠ 1 :=
  ⟨inv_timed, by decide +kernel⟩

theorem witness_Cp0Writes :
    base.cp0Usable = true ∧ ((two 7 0).srcRt 1).getLsbD 3 = false ∧ ((two 8 0).srcRt 1).getLsbD 3 = true
    ∧ timed.cfg.hasTimer = true
    ∧ ((31 : Reg).toNat ∈ [4, 7, 17, 18, 19, 20, 21, 22, 23, 24, 25, 26, 27, 28, 29, 31])
    ∧ ((9 : Reg).toNat ∈ [9, 11] ∧ base.cfg.hasTimer = false)
    ∧ (20 ≤ base.cfg.psize ∧ base.cfg.psize ≤ 36) := by
  decide +kernel

/-- One TLB entry, which EntryHi matches. -/
def single : State := { base with tlb := [⟨0, 0x200, false, 1, ⟨3, 2, true, true⟩, ⟨4, 2, false, true⟩⟩],
                                  cp0 := { base.cp0 with entryHi := 0x400001, random := 0 } }

/-- Twelve TLB entries, Index naming a thirteenth. -/
def twelve : State := { State.resetWith Params.default 12 with
                        cp0 := { (State.resetWith Params.default 12).cp0 with index := 12, status := 0 } }

theorem witness_TlbInstructions :
    (single.Inv ∧ single.cp0Usable = true)
    ∧ ((single.cp0.index &&& single.indexMask).toNat < single.tlbEntries
      ∧ single.cp0.pageMask.extractLsb' 13 16 ∈ single.cfg.pageMaskLegal)
    ∧ (single.cp0.wired.toNat < single.tlbEntries)
    ∧ single.tlb[0]? = some ⟨0, 0x200, false, 1, ⟨3, 2, true, true⟩, ⟨4, 2, false, true⟩⟩
    ∧ (∃ x, single.tlb[0]? = some x ∧ (x.g = true ∨ x.asid = single.cp0.entryHi.extractLsb' 0 8)
        ∧ ∀ j, j < 19 → x.mask.getLsbD j = false → x.vpn2.getLsbD j = single.cp0.entryHi.getLsbD (13 + j))
    ∧ (∀ l : Nat, 0 < l → ¬ ∃ x, single.tlb[l]? = some x)
    ∧ (∀ k : Nat, ¬ ∃ x : TlbEntry, base.tlb[k]? = some x ∧ (x.g = true ∨ x.asid = base.cp0.entryHi.extractLsb' 0 8)
        ∧ ∀ j, j < 19 → x.mask.getLsbD j = false → x.vpn2.getLsbD j = base.cp0.entryHi.getLsbD (13 + j))
    ∧ (twelve.Inv ∧ twelve.cp0Usable = true ∧ twelve.tlbEntries ≤ (twelve.cp0.index &&& twelve.indexMask).toNat)
    ∧ State.Inv { base with cp0 := { base.cp0 with pageMask := 0x6000 } }
    ∧ ¬ (0x6000 : Word).extractLsb' 13 16 ∈ base.cfg.pageMaskLegal := by
  refine ⟨⟨by constructor <;> decide +kernel, by decide +kernel⟩, by decide +kernel, by decide +kernel, rfl,
    ⟨_, rfl, by decide +kernel⟩, ?_, ?_, ⟨by constructor <;> decide +kernel, by decide +kernel⟩,
    by constructor <;> decide +kernel, by decide +kernel⟩
  · rintro (_ | l) h ⟨x, hx⟩
    · omega
    · cases hx
  · rintro k ⟨x, hx, -, h⟩
    have hall : ∀ y ∈ base.tlb, y.mask = 0 ∧ y.vpn2.getLsbD 18 = true := by decide +kernel
    obtain ⟨hm, hv⟩ := hall x (List.mem_of_getElem? hx)
    have := h 18 (by decide) (by rw [hm]; rfl)
    rw [hv] at this
    exact absurd this (by decide +kernel)

/-- A stopped core whose line 0 is raised, with Status masking it (0) or not. -/
def stopped (status : Word) : State := { withStatus base status with waiting := true, env := [⟨1, .none, []⟩] }

theorem witness_WaitResults :
    (base.inDelaySlot = false ∧ base.cp0Usable = true)
    ∧ ((stopped 0).waiting = true ∧ (stopped 0).input.event = .none
      ∧ (stopped 0).sample.cp0.cause.extractLsb' 8 8 &&& (stopped 0).sample.cp0.status.extractLsb' 8 8 = 0)
    ∧ ((stopped 0x400).waiting = true ∧ (stopped 0x400).input.event = .none
      ∧ (stopped 0x400).sample.cp0.cause.extractLsb' 8 8 &&& (stopped 0x400).sample.cp0.status.extractLsb' 8 8 ≠ 0
      ∧ (stopped 0x400).sample.cp0.interruptTaken = false) := by
  decide +kernel

theorem witness_CoprocessorUnusable :
    ¬ (user.inDelaySlot = true ∧ notInSlot .eret = true)
    ∧ ¬ (State.inDelaySlot { user with inDelaySlot := true } = true ∧ notInSlot .tlbr = true)
    ∧ (usesCp0 .eret = true ∧ user.userMode = true ∧ user.cp0.cu0 = false)
    ∧ (usesCp1 (.lwc1 1 2 0) = true ∧ usesCp1 (.bc1f 7 4) = true ∧ base.cp0.cu1 = false) := by
  decide +kernel

/-- CU1 set, r1 at the end of kseg0's first 8 KB. -/
def fpuAt : State := { fpuD 0 0 with gpr := (two 0x80001FF8 0).gpr }

theorem witness_FpuLoadStore :
    fpuAt.cp1Usable = true ∧ (30 : Reg).getLsbD 0 = false
    ∧ (fpuAt.locate (fpuAt.effAddr 1 4) 4 .load = .ok 0x1FFC ∧ fpuAt.admits (0x1FFC#36).toNat 4 .load = true)
    ∧ (fpuAt.locate (fpuAt.effAddr 1 4) 4 .store = .ok 0x1FFC ∧ fpuAt.admits (0x1FFC#36).toNat 4 .store = true)
    ∧ (fpuAt.locate (fpuAt.effAddr 1 0) 8 .load = .ok 0x1FF8 ∧ fpuAt.admits (0x1FF8#36).toNat 8 .load = true)
    ∧ (fpuAt.locate (fpuAt.effAddr 1 0) 8 .store = .ok 0x1FF8 ∧ fpuAt.admits (0x1FF8#36).toNat 8 .store = true) := by
  refine ⟨by decide +kernel, by decide, ⟨rfl, ?_⟩, ⟨rfl, ?_⟩, ⟨rfl, ?_⟩, ⟨rfl, ?_⟩⟩ <;> decide +kernel

theorem witness_FpuTransfers :
    (fpu 0 0 0).cp1Usable = true
    ∧ ((0x100 : Word).extractLsb' 8 24 ≠ 0 ∧ (0xFF : Word).extractLsb' 8 24 = 0)
    ∧ (decide ((0x20000 : Word).extractLsb' 18 5 = 0) = true ∧ (0x20000 : Word).getLsbD 17 = true)
    ∧ ((0x1080 : Word).extractLsb' 12 5 &&& (0x1080 : Word).extractLsb' 7 5 ≠ 0)
    ∧ ¬ ((0xFF81F07F : Word).getLsbD 17 = true
        ∨ (0xFF81F07F : Word).extractLsb' 12 5 &&& (0xFF81F07F : Word).extractLsb' 7 5 ≠ 0)
    ∧ (0x40000 : Word).extractLsb' 18 5 ≠ 0 ∧ (30 : Reg).toNat ∉ [25, 26, 28, 31] ∧ (27 : Reg).toNat ∉ [25, 26, 28, 31] := by
  decide +kernel

/-- The FPU with some instructions on their operands listed as not implemented. -/
def listed : State :=
  { fpu 0x3F800000 0x3F800000 0 with
    cfg := { base.cfg with fpUnimplemented := [⟨.movS 2 6, 0x3F800000, 0, 0⟩,
      ⟨.movfS 3 2 4, 0x3F800000, 0, 0x3F800000⟩, ⟨.addS 4 2 6, 0x3F800000, 0x3F800000, 0⟩,
      ⟨.cEqS 4 2 0, 0x3F800000, 0x3F800000, 0⟩, ⟨.sqrtS 2 6, 0x3F800000, 0, 0⟩, ⟨.bc1t 7 16, 0, 0, 0⟩] } }

/-- The FPU where subnormal operands and results are not implemented, f2 the least normal number, f4 a half. -/
def strict : State :=
  { fpu 0x00800000 0x3F000000 0 with cfg := { base.cfg with denormMode := .unimplemented } }

theorem witness_FpuMoves :
    (fpuD 1 1).cp1Usable = true ∧ fmtSuits .d 2 = true ∧ fmtSuits .d 30 = true ∧ (fpuD 1 1).holds 2 .d = true
    ∧ (fpuD 1 1).fpListed (.movD 2 30) ((fpuD 1 1).fpOperand .fprFirst 2 .d) 0 0 = false
    ∧ (listed.holds 2 .s = true ∧ listed.fpListed (.movS 2 6) (listed.fpOperand .fprFirst 2 .s) 0 0 = true)
    ∧ (listed.holds 4 .s = true ∧ listed.fpListed (.movfS 3 2 4) (listed.fpOperand .fprFirst 2 .s)
        ((BitVec.ofBool (listed.fcsr.getLsbD 27)).setWidth 64) (listed.fpOperand .fprSecond 4 .s) = true)
    ∧ (!(fpuD 1 1).fcsr.getLsbD 23) = true
    ∧ ((fpuD 1 1).fcsr.getLsbD 31 = false ∧ (fpuD 1 1).holds 4 .d = true)
    ∧ (30 : Reg) ≠ 31 := by
  decide +kernel

theorem witness_FpuBinary :
    (fpuD 1 1).cp1Usable = true ∧ (∀ r ∈ ([4, 2, 6] : List Reg), fmtSuits .d r = true)
    ∧ ((fpuD 1 1).holds 2 .d = true ∧ (fpuD 1 1).holds 4 .d = true)
    ∧ (fpuD 1 1).fpUnimplementedOn (.addD 4 2 6) .d ((fpuD 1 1).valueFpr 2 .d) ((fpuD 1 1).valueFpr 4 .d) = false
    ∧ (fpuD 1 1).fpDenormal .d 2 = false
    ∧ FpTraps 0x800 .justInvalid ∧ ¬ FpTraps 0x400 .justInvalid := by
  unfold FpTraps
  decide +kernel

theorem witness_FpuOneOperand :
    (fpu 0x3F800000 0 0).cp1Usable = true ∧ fmtSuits .s 2 = true ∧ fmtSuits .d 6 = true
    ∧ (fpu 0x3F800000 0 0).holds 2 .s = true ∧ (fpu 1 0 0).holds 2 .w = true
    ∧ (fpu 0x3F800000 0 0).fpUnimplementedOn (.sqrtS 2 6) .s ((fpu 0x3F800000 0 0).valueFpr 2 .s) 0 = false
    ∧ (strict.fpDenormal .s 0x00400000 = true ∧ strict.cp1Usable = true) := by
  decide +kernel

theorem witness_FpuToWord :
    (fpu 0x4F000000 0 0).cp1Usable = true ∧ fmtSuits .s 2 = true ∧ (fpu 0x4F000000 0 0).holds 2 .s = true
    ∧ (fpu 0x4F000000 0 0).fpUnimplementedOn (.cvtWS 2 6) .s ((fpu 0x4F000000 0 0).valueFpr 2 .s) 0 = false := by
  decide +kernel

theorem witness_FpuCompare :
    (fpuD 1 1).cp1Usable = true ∧ fmtSuits .d 2 = true ∧ fmtSuits .d 4 = true ∧ (fpuD 1 1).holds 2 .d = true
    ∧ (fpuD 1 1).holds 4 .d = true
    ∧ (fpuD 1 1).fpUnimplementedOn (.cEqD 4 2 0) .d ((fpuD 1 1).valueFpr 2 .d) ((fpuD 1 1).valueFpr 4 .d) = false := by
  decide +kernel

theorem witness_FpuBranch :
    listed.cp1Usable = true ∧ listed.inDelaySlot = false
    ∧ listed.fpListed (.bc1t 6 16) ((BitVec.ofBool (listed.fcsr.getLsbD 30)).setWidth 64) 0 0 = false
    ∧ listed.fpListed (.bc1t 7 16) ((BitVec.ofBool (listed.fcsr.getLsbD 31)).setWidth 64) 0 0 = true := by
  decide +kernel

theorem witness_FpuRegisters :
    (fpuD 1 1).cp1Usable = true ∧ (∃ r ∈ ([30, 31, 2] : List Reg), r.getLsbD 0 = true)
    ∧ ∀ r ∈ ([30, 0, 2] : List Reg), r.getLsbD 0 = false := by
  decide +kernel

theorem witness_FpuUnimplemented :
    listed.cp1Usable = true ∧ (listed.holds 2 .s = true ∧ listed.holds 4 .s = true)
    ∧ listed.fpUnimplementedOn (.addS 4 2 6) .s (listed.valueFpr 2 .s) (listed.valueFpr 4 .s) = true
    ∧ listed.fpUnimplementedOn (.cEqS 4 2 0) .s (listed.valueFpr 2 .s) (listed.valueFpr 4 .s) = true
    ∧ listed.fpUnimplementedOn (.sqrtS 2 6) .s (listed.valueFpr 2 .s) 0 = true
    ∧ (strict.holds 2 .s = true ∧ strict.holds 4 .s = true
      ∧ strict.fpUnimplementedOn (.mulS 4 2 6) .s (strict.valueFpr 2 .s) (strict.valueFpr 4 .s) = false
      ∧ strict.fpDenormal .s 0x00400000 = true) := by
  decide +kernel

/-- An environment of the FPU operations that rounds to nearest. -/
def nearest : FpEnv := ⟨0, false, false, 0⟩

/-- To nearest, the largest finite number and a quarter of its unit stays, half a unit more overflows; half a unit
below the smallest normal number rounds up to it and is not tiny, three quarters below is (R300(d), R303). -/
theorem test_fpRound_limits :
    (fpRound .single 0 false false 0x3FFFFFD 102).conds.overflow = false
    ∧ (fpRound .single 0 false false 0x3FFFFFE 102).conds.overflow = true
    ∧ (fpRound .single 1 false false 0x3FFFFFF 102).conds.overflow = false
    ∧ (fpRound .single 2 false true 0x3FFFFFF 102).conds.overflow = false
    ∧ (fpRound .single 3 false true 0x3FFFFFD 102).conds.overflow = true
    ∧ (fpRound .single 0 false false 0x3FFFFFE (-152)).conds.underflow = false
    ∧ (fpRound .single 0 false false 0x3FFFFFD (-152)).conds.underflow = true := by
  decide +kernel

theorem witness_FpRounding : (0x3FFFFFE : Nat) ≠ 0 := by decide

theorem witness_FpArithmeticRounds :
    (((FpVal.fin false 1 0).value : ℚ) : ℝ) + ((FpVal.fin false 1 0).value : ℚ) ≠ 0
    ∧ (((FpVal.fin false 1 0).value : ℚ) : ℝ) + ((FpVal.fin true 1 0).value : ℚ) = 0
    ∧ (1 : Nat) ≠ 0 ∧ (false = false ∨ (1 : Nat) = 0) ∧ (true = false ∨ (0 : Nat) = 0) := by
  refine ⟨?_, ?_, by decide, by decide, by decide⟩ <;> norm_num [FpVal.value]

theorem witness_FpSpecialOperands : (FpVal.nan true).isNan = true ∨ (FpVal.inf false).isNan = true := by decide

theorem witness_ExceptionReturns :
    (base.cp0.exl = false ∧ base.cp0.erl = false) ∧ (withStatus base 2).cp0.exl = true := by
  decide +kernel

/-- Line 0 raised, another agent writing the last byte of memory. -/
def driven (status : Word) : State :=
  { withStatus base status with env := [⟨1, .none, [(0xFFFFFFFF, 0x5A)]⟩] }

/-- A link at 0x2000, and another agent writing the byte there twice, and the next one. -/
def rewritten : State := { linked with env := [⟨0, .none, [(0x2000, 1), (0x2000, 2), (0x2001, 3)]⟩] }

/-- The last write stays, and the link is lost (R84(a)). -/
theorem test_outside_writes :
    rewritten.sample.byteAt 0x2000 = 2 ∧ rewritten.sample.byteAt 0x2001 = 3 ∧ rewritten.sample.llBit = false := by
  decide +kernel

theorem witness_InterruptsAndInputs :
    base.cfg.hasTimer = false
    ∧ (timed.cfg.hasTimer = true ∧ timed.cp0.count = timed.cp0.compare)
    ∧ ({ timed with cp0 := { timed.cp0 with timerRequest := true, count := 1 } } : State).cp0.timerRequest = true
    ∧ ((driven 0).input.writes = [(0xFFFFFFFF, 0x5A)] ∧ 0xFFFFFFFF < 2 ^ (driven 0).cfg.psize)
    ∧ (∀ c ∈ (driven 0).input.writes, c.1 ≠ 0)
    ∧ (rewritten.input.writes = [(0x2000, 1)] ++ (0x2000, 2) :: [(0x2001, 3)]
      ∧ (∀ c ∈ ([(0x2001, 3)] : List Host.Cell), c.1 ≠ 0x2000))
    ∧ ((driven 0x401).input.event = .none ∧ (driven 0x401).sample.cp0.status.extractLsb' 0 3 = 1
      ∧ (driven 0x401).sample.cp0.cause.extractLsb' 8 8 &&& (driven 0x401).sample.cp0.status.extractLsb' 8 8 ≠ 0)
    ∧ ((driven 0x403).input.event = .none ∧ ¬ (driven 0x403).sample.cp0.status.extractLsb' 0 3 = 1
      ∧ (driven 0x403).waiting = false) := by
  decide +kernel

theorem witness_ResetInputs :
    State.input { base with env := [⟨0, .reset, []⟩] } = ⟨0, .reset, []⟩
    ∧ (State.input { base with env := [⟨0, .softReset, []⟩] }).event = .softReset
    ∧ (State.input { base with env := [⟨0, .nmi, []⟩] }).event = .nmi := by
  decide +kernel

/-- SYSCALL stored at the base's pc. -/
def withSyscall : State := base.withFetchWord 32 0x0000000C

/-- With MFHI r5 at pc. -/
def readsHi : State := base.withFetchWord 32 0x00002810

theorem witness_StepRunsDecoded :
    (withSyscall.begin = .run (begun withSyscall)
      ∧ (begun withSyscall).locate (begun withSyscall).pc 4 .fetch = .ok 0x1000
      ∧ (begun withSyscall).admits (0x1000#36).toNat 4 .fetch = true
      ∧ decode ((begun withSyscall).wordAt (0x1000#36).toNat) = .ok (.syscall 0))
    ∧ ((∀ rd, Instr.syscall 0 ≠ .mfhi rd ∧ Instr.syscall 0 ≠ .mflo rd)
      ∧ readsHi.begin = .run (begun readsHi) ∧ (begun readsHi).locate (begun readsHi).pc 4 .fetch = .ok 0x1000
      ∧ (begun readsHi).admits (0x1000#36).toNat 4 .fetch = true
      ∧ decode ((begun readsHi).wordAt (0x1000#36).toNat) = .ok (.mfhi 5))
    ∧ (base.waiting = false ∧ base.env = [] ∧ base.cfg.hasTimer = false ∧ base.cp0.status.getLsbD 0 = false) := by
  refine ⟨⟨by decide +kernel, rfl, by decide +kernel, by decide +kernel⟩, ⟨by simp, by decide +kernel, rfl, by decide +kernel, by decide +kernel⟩,
    by decide +kernel⟩

/-- The base about to fetch at an address, with the pages of the tests. -/
def fetching (va : Word) : State := { paged with pc := va }

theorem witness_FetchFaults :
    (base.begin = .run (begun base))
    ∧ ((fetching 0x80000002).begin = .run (begun (fetching 0x80000002))
      ∧ (begun (fetching 0x80000002)).pc.toNat % 4 ≠ 0)
    ∧ (State.begin { user with pc := 0x80000000 } = .run (begun { user with pc := 0x80000000 })
      ∧ State.userMode { user with pc := 0x80000000 } = true ∧ 2 ^ 31 ≤ (0x80000000 : Word).toNat)
    ∧ (Mapped (fetching 0x7FFFFFFC) 0x7FFFFFFC ∧ (fetching 0x7FFFFFFC).tlbHits 0x7FFFFFFC = [])
    ∧ (Mapped (fetching 0x800000) 0x800000
      ∧ ∃ e, (fetching 0x800000).tlbHits 0x800000 = [e] ∧ (e.page 0x800000).v = false)
    ∧ (Mapped (fetching 0x401FFC) 0x401FFC
      ∧ ∃ e, (fetching 0x401FFC).tlbHits 0x401FFC = [e] ∧ (e.page 0x401FFC).v = true)
    ∧ (Mapped (fetching 0x600000) 0x600000 ∧ ∃ e f l, (fetching 0x600000).tlbHits 0x600000 = e :: f :: l)
    ∧ (holed.begin = .run (begun holed) ∧ (begun holed).locate (begun holed).pc 4 .fetch = .ok 0x1000
      ∧ (begun holed).admits (0x1000#36).toNat 4 .fetch = false) := by
  unfold Mapped
  refine ⟨by decide +kernel, by decide +kernel, by decide +kernel, by decide +kernel, ⟨by decide +kernel, _, rfl, rfl⟩,
    ⟨by decide +kernel, _, rfl, rfl⟩, ⟨by decide +kernel, _, _, _, rfl⟩, ⟨by decide +kernel, rfl, by decide +kernel⟩⟩

/-- No instruction has the primary opcode 63. -/
theorem encode_ne_op63 (i : Instr) : encode i ≠ 0xFC000000 := by
  intro h
  have h := congrArg opOf h
  revert h
  cases i <;>
    simp only [encode, opOf_wordR, opOf_wordI, opOf_wordJ, opOf_wordCode20, opOf_wordCode10, opOf_wordCo] <;> decide

/-- No instruction of coprocessor 0 has the sub-code 00001. -/
theorem encode_ne_cop0_1 (i : Instr) : encode i ≠ 0x40200000 := by
  intro h
  have h1 := congrArg opOf h
  have h2 := congrArg rsOf h
  have h3 := congrArg (BitVec.getLsbD · 25) h
  revert h1 h2 h3
  cases i <;>
    simp only [encode, opOf_wordR, opOf_wordI, opOf_wordJ, opOf_wordCode20, opOf_wordCode10, opOf_wordCo, rsOf_wordR,
      wordCo_co] <;>
    intro h1 h2 h3 <;> first
    | exact absurd h1 (by decide)
    | exact absurd h2 (by decide)
    | exact absurd h3 (by decide)

/-- No instruction of coprocessor 1 has the format 10111. -/
theorem encode_ne_cop1_23 (i : Instr) : encode i ≠ 0x46E00000 := by
  intro h
  have h1 := congrArg opOf h
  have h2 := congrArg rsOf h
  revert h1 h2
  cases i <;>
    simp only [encode, opOf_wordR, opOf_wordI, opOf_wordJ, opOf_wordCode20, opOf_wordCode10, opOf_wordCo, rsOf_wordR,
      rsOf_wordI] <;>
    intro h1 h2 <;> first
    | exact absurd h1 (by decide)
    | exact absurd h2 (by decide)

/-- A state whose next fetch reads w. -/
def reading (s : State) (w : Nat) : State := s.withFetchWord 32 w

/-- User mode at 0x400000, mapped to 0x3000. -/
def userPaged : State :=
  { withStatus paged 0x10 with pc := 0x400000, npc := 0x400004 }

theorem witness_ReservedWords :
    ((reading base 0xFC000000).begin = .run (begun (reading base 0xFC000000))
      ∧ (begun (reading base 0xFC000000)).locate (begun (reading base 0xFC000000)).pc 4 .fetch = .ok 0x1000
      ∧ (begun (reading base 0xFC000000)).admits (0x1000#36).toNat 4 .fetch = true
      ∧ (begun (reading base 0xFC000000)).wordAt (0x1000#36).toNat = 0xFC000000
      ∧ ∀ i : Instr, encode i ≠ 0xFC000000)
    ∧ ((reading userPaged 0x40200000).begin = .run (begun (reading userPaged 0x40200000))
      ∧ (begun (reading userPaged 0x40200000)).locate (begun (reading userPaged 0x40200000)).pc 4 .fetch = .ok 0x3000
      ∧ (begun (reading userPaged 0x40200000)).admits (0x3000#36).toNat 4 .fetch = true
      ∧ (begun (reading userPaged 0x40200000)).wordAt (0x3000#36).toNat = 0x40200000
      ∧ (∀ i : Instr, encode i ≠ 0x40200000)
      ∧ (0x40200000 : Word).extractLsb' 26 6 = 16 ∧ (begun (reading userPaged 0x40200000)).cp0Usable = false)
    ∧ ((reading base 0x46E00000).begin = .run (begun (reading base 0x46E00000))
      ∧ (begun (reading base 0x46E00000)).locate (begun (reading base 0x46E00000)).pc 4 .fetch = .ok 0x1000
      ∧ (begun (reading base 0x46E00000)).admits (0x1000#36).toNat 4 .fetch = true
      ∧ (begun (reading base 0x46E00000)).wordAt (0x1000#36).toNat = 0x46E00000
      ∧ (∀ i : Instr, encode i ≠ 0x46E00000)
      ∧ (0x46E00000 : Word).extractLsb' 26 6 = 17 ∧ (begun (reading base 0x46E00000)).cp1Usable = false)
    ∧ (0xFC000000 : Word).extractLsb' 26 6 ∈ ([18, 63] : List (BitVec 6)) := by
  refine ⟨⟨by decide +kernel, rfl, by decide +kernel, by decide +kernel, encode_ne_op63⟩,
    ⟨by decide +kernel, rfl, by decide +kernel, by decide +kernel, encode_ne_cop0_1, by decide +kernel⟩,
    ⟨by decide +kernel, rfl, by decide +kernel, by decide +kernel, encode_ne_cop1_23, by decide +kernel⟩,
    by decide +kernel⟩

theorem witness_DecodeOfEncode : Instr.WellFormed (.tne 1 2 0x3FF) = true := by decide

theorem witness_EncodeOfDecode : decode 0x46041732 = .ok (.cEqS 4 2 7) := by decide +kernel

theorem witness_InvariantKept :
    State.Inv withSyscall ∧ ∃ t, step withSyscall = .next t := by
  refine ⟨by constructor <;> decide +kernel, _, rfl⟩

theorem witness_ResetInvariant : 1 ≤ 1 ∧ 1 ≤ 64 ∧ (64 : Nat) ≤ 64 := by decide

theorem witness_PrivilegeRules :
    ((∃ t, exec (.tlbwr) user = .next t) ∧ user.userMode = true ∧ user.cp0.cu0 = false)
    ∧ ∃ t, exec .eret { withStatus base 0x12 with pc := 0x80000180 } = .next t
      ∧ (withStatus base 0x12).userMode = false ∧ t.userMode = true := by
  refine ⟨⟨⟨_, rfl⟩, by decide +kernel⟩, _, rfl, ?_⟩
  decide +kernel

theorem witness_StateOwners :
    (∃ t, exec (.ll 1 3 0) (two 0x80002000 0) = .next t ∧ t.llBit = true ∧ (two 0x80002000 0).llBit = false)
    ∧ (storesMemory (.ll 1 3 0) = false ∧ writesHiLo (.ll 1 3 0) = false ∧ usesCp1 (.ll 1 3 0) = false)
    ∧ ∃ t, exec (.wait 0) base = .next t ∧ t.waiting = true := by
  refine ⟨⟨_, rfl, ?_⟩, by decide +kernel, _, rfl, ?_⟩ <;> decide +kernel

end Sys2Proof.Tests
end

section
/-! The machine's form, in two layers: the CP0 registers, whose conditions are about the reserved bits of words, and the
rest. First the words, then what each update of a CP0 register does to the form. -/
namespace Sys2Proof.Machine

/-! ## Words whose bits outside a mask are 0 -/

theorem masked_and (v m : Word) : (v &&& m) &&& ~~~m = 0 := by
  rw [BitVec.and_assoc, BitVec.and_not_self]; exact BitVec.and_zero

theorem masked_or {v w m : Word} (hv : v &&& ~~~m = 0) (hw : w &&& ~~~m = 0) : (v ||| w) &&& ~~~m = 0 := by
  rw [BitVec.and_or_distrib_right, hv, hw]; rfl

/-- Bits chosen by any other word stay inside the mask. -/
theorem masked_and_right {v m : Word} (n : Word) (hv : v &&& ~~~m = 0) : (v &&& n) &&& ~~~m = 0 := by
  rw [BitVec.and_assoc, BitVec.and_comm n, ← BitVec.and_assoc, hv]; exact BitVec.zero_and

/-- A write of bits that all lie in the mask. -/
theorem masked_blend {w m n : Word} (v : Word) (hn : n &&& ~~~m = 0) (hw : w &&& ~~~m = 0) :
    blend n v w &&& ~~~m = 0 := by
  refine masked_or ?_ (masked_and_right _ hw)
  rw [BitVec.and_comm v]; exact masked_and_right _ hn

/-- A write of one bit that lies in the mask. -/
theorem masked_putBit {w m : Word} (k : Nat) (b : Bool) (hk : (1#32 <<< k) &&& ~~~m = 0) (hw : w &&& ~~~m = 0) :
    putBit w k b &&& ~~~m = 0 := by
  unfold putBit
  cases b
  · exact masked_and_right _ hw
  · exact masked_or hw hk

/-- A write of bits outside a mask leaves the bits under it. -/
theorem blend_and_of_disjoint {m n : Word} (v w : Word) (h : m &&& n = 0) : blend m v w &&& n = w &&& n := by
  ext i hi
  have hmn : (m[i] && n[i]) = false := by simpa using congrArg (·[i]) h
  rw [BitVec.getElem_and, BitVec.getElem_and, getElem_blend]
  cases hm : m[i] with
  | false => rfl
  | true => simp [show n[i] = false by simpa [hm] using hmn]

/-- A number below 2^n has no bit from n up. -/
theorem masked_ofNat {k n : Nat} (hk : k < 2 ^ n) :
    BitVec.ofNat 32 k &&& ~~~(BitVec.ofNat 32 (2 ^ n - 1)) = 0 := by
  apply BitVec.eq_of_getLsbD_eq; intro i hi
  simp only [BitVec.getLsbD_and, BitVec.getLsbD_not, BitVec.getLsbD_ofNat, hi, decide_true, Bool.true_and,
    Nat.testBit_two_pow_sub_one, BitVec.ofNat_eq_ofNat]
  by_cases hin : i < n
  · simp [hin]
  · simp [Nat.testBit_lt_two_pow (hk.trans_le (Nat.pow_le_pow_right (by omega) (Nat.le_of_not_lt hin)))]

/-- A write of a bit outside a field leaves the field. -/
theorem extract_putBit (w : Word) (k i n : Nat) (b : Bool) (hn : i + n ≤ 32) (hk : k < i ∨ i + n ≤ k) :
    (putBit w k b).extractLsb' i n = w.extractLsb' i n := by
  ext j hj
  rw [BitVec.getElem_extractLsb', BitVec.getElem_extractLsb', BitVec.getLsbD_eq_getElem (by omega),
    BitVec.getLsbD_eq_getElem (by omega), getElem_putBit, if_neg (by omega)]

/-- A word whose bit 3 is 0 has KSU = 00 or 10, under any mask of Status. -/
theorem ksu_of_bit3 (w : Word) (h : w.getLsbD 3 = false) :
    (w &&& statusMask).extractLsb' 3 2 = 0 ∨ (w &&& statusMask).extractLsb' 3 2 = 2 := by
  have bit : ((w &&& statusMask).extractLsb' 3 2).getLsbD 0 = false := by
    rw [BitVec.getLsbD_extractLsb', BitVec.getLsbD_and, h]; rfl
  have even : ∀ k : BitVec 2, k.getLsbD 0 = false → k = 0 ∨ k = 2 := by decide
  exact even _ bit

/-- Cause keeps its reserved bits through an entry (spec/60_exceptions.md R350). -/
theorem Exc.masked_causeAfter (x : Exc) (exl ds : Bool) {w : Word} (h : w &&& ~~~causeMask = 0) :
    x.causeAfter exl ds w &&& ~~~causeMask = 0 := by
  have coded := masked_blend (n := 0x7C) (x.code.setWidth 32 <<< 2) (by decide) h
  have named : ∀ u : BitVec 2, blend 0x30000000 (u.setWidth 32 <<< 28) (blend 0x7C (x.code.setWidth 32 <<< 2) w)
      &&& ~~~causeMask = 0 := fun _ => masked_blend _ (by decide) coded
  rw [x.causeAfter_eq]
  cases x.unit <;> cases exl
  · exact masked_putBit 31 ds (by decide) coded
  · exact coded
  · exact masked_putBit 31 ds (by decide) (named _)
  · exact named _

/-! ## The CP0 registers -/

/-- The CP0 registers c are as State.Inv asks, for the parameters and the number of TLB entries of s. -/
structure Cp0.Formed (s : State) (c : Cp0) : Prop where
  /-- Status: reserved bits. -/
  status : c.status &&& ~~~statusMask = 0
  /-- Status: the mode. -/
  mode : c.ksu = 0 ∨ c.ksu = 2
  /-- Cause. -/
  cause : c.cause &&& ~~~causeMask = 0
  /-- EntryHi. -/
  entryHi : c.entryHi &&& ~~~entryHiMask = 0
  /-- PageMask. -/
  pageMask : c.pageMask &&& ~~~pageMaskMask = 0
  /-- EntryLo0. -/
  entryLo0 : c.entryLo0 &&& ~~~s.entryLoMask = 0
  /-- EntryLo1. -/
  entryLo1 : c.entryLo1 &&& ~~~s.entryLoMask = 0
  /-- Wired. -/
  wired : c.wired &&& ~~~s.indexMask = 0
  /-- Index. -/
  index : c.index &&& ~~~(0x80000000#32 ||| s.indexMask) = 0
  /-- Config. -/
  config : c.config &&& 0xFFFFFFF8 = s.cfg.configReset &&& 0xFFFFFFF8
  /-- Config1. -/
  config1 : c.config1 = s.cfg.config1Reset
  /-- Random. -/
  random : c.random.toNat < s.tlbEntries

/-- The form of a state: memory, GPR[0], FCSR, the number of TLB entries, and the CP0 registers. -/
theorem State.inv_iff (s : State) :
    s.Inv ↔ Memory.wf s.mem = true ∧ s.gpr[0] = 0 ∧ s.fcsr.extractLsb' 18 5 = 0
      ∧ (1 ≤ s.tlbEntries ∧ s.tlbEntries ≤ 64) ∧ s.cp0.Formed s := by
  constructor
  · intro h
    exact ⟨h.memory, h.zero, h.fcsr, h.entries, h.status, h.mode, h.cause, h.entryHi, h.pageMask, h.entryLo0,
      h.entryLo1, h.wired, h.index, h.config, h.config1, h.random⟩
  · rintro ⟨hmem, hzero, hfcsr, hn, c⟩
    exact ⟨hmem, hzero, c.status, c.mode, c.cause, c.entryHi, c.pageMask, c.entryLo0, c.entryLo1, c.wired, c.index,
      c.config, c.config1, hfcsr, hn, c.random⟩

theorem State.entryLoMask_congr {s t : State} (hc : t.cfg = s.cfg) : t.entryLoMask = s.entryLoMask := by
  unfold State.entryLoMask; rw [hc]

theorem State.indexMask_congr {s t : State} (hn : t.tlbEntries = s.tlbEntries) : t.indexMask = s.indexMask := by
  unfold State.indexMask State.indexBits; rw [hn]

/-- Of the state, the form of CP0 asks the parameters and the number of TLB entries only. -/
theorem Cp0.Formed.congr {s t : State} {c : Cp0} (h : c.Formed s) (hc : t.cfg = s.cfg)
    (hn : t.tlbEntries = s.tlbEntries) : c.Formed t where
  status := h.status
  mode := h.mode
  cause := h.cause
  entryHi := h.entryHi
  pageMask := h.pageMask
  entryLo0 := State.entryLoMask_congr hc ▸ h.entryLo0
  entryLo1 := State.entryLoMask_congr hc ▸ h.entryLo1
  wired := State.indexMask_congr hn ▸ h.wired
  index := State.indexMask_congr hn ▸ h.index
  config := hc ▸ h.config
  config1 := hc ▸ h.config1
  random := hn ▸ h.random

/-- A new Status with its reserved bits 0 and the mode as before. -/
theorem Cp0.Formed.withStatus {s : State} {c : Cp0} (h : c.Formed s) {w : Word} (hw : w &&& ~~~statusMask = 0)
    (hm : w.extractLsb' 3 2 = 0 ∨ w.extractLsb' 3 2 = 2) : ({ c with status := w } : Cp0).Formed s :=
  { h with status := hw, mode := hm }

/-- Status with one bit outside KSU written. -/
theorem Cp0.Formed.putStatus {s : State} {c : Cp0} (h : c.Formed s) (k : Nat) (b : Bool)
    (hk : (1#32 <<< k) &&& ~~~statusMask = 0) (hf : k < 3 ∨ 5 ≤ k) :
    ({ c with status := putBit c.status k b } : Cp0).Formed s :=
  h.withStatus (masked_putBit k b hk h.status) (by
    rw [extract_putBit _ _ _ _ _ (by omega) (by omega)]; exact h.mode)

theorem Cp0.Formed.withRandom {s : State} {c : Cp0} (h : c.Formed s) {k : Nat} (hk : k < s.tlbEntries)
    (hn : s.tlbEntries ≤ 64) : ({ c with random := BitVec.ofNat 32 k } : Cp0).Formed s :=
  { h with random := by rw [BitVec.toNat_ofNat, Nat.mod_eq_of_lt (by omega)]; exact hk }

/-- An exception's entry (spec/60_exceptions.md R350). -/
theorem Cp0.Formed.enter {s : State} {c : Cp0} (h : c.Formed s) (x : Exc) (restart : Word) (ds : Bool) :
    (c.enter x restart ds).Formed s := by
  have hi : (c.enter x restart ds).entryHi &&& ~~~entryHiMask = 0 := by
    unfold Cp0.enter
    cases x.badVpn2 with
    | none => exact h.entryHi
    | some v => exact masked_blend _ (by decide) h.entryHi
  have st := h.putStatus 1 true (by decide) (by omega)
  exact { h with status := st.status, mode := st.mode, cause := x.masked_causeAfter _ _ h.cause, entryHi := hi }

/-- MTC0 (spec/47_cp0.md R272): the reserved bits stay 0, and a reserved mode is refused before. -/
theorem State.writeCp0_formed {s : State} {c : Cp0} {rd : Reg} {v : Word} (h : s.cp0.Formed s)
    (hv : rd = 12 → v.getLsbD 3 = false) (hw : s.writeCp0 rd v = some c) : c.Formed s := by
  unfold State.writeCp0 at hw
  split at hw
  all_goals try cases hw
  case h_1 => -- Index
    refine { h with index := masked_blend _ ?_ h.index }
    rw [BitVec.or_comm, BitVec.not_or, ← BitVec.and_assoc, BitVec.and_not_self]; exact BitVec.zero_and
  case h_2 => exact h -- Random
  case h_3 => exact { h with entryLo0 := masked_and _ _ }
  case h_4 => exact { h with entryLo1 := masked_and _ _ }
  case h_5 => exact { h with pageMask := masked_and _ _ }
  case h_6 => exact { h with wired := masked_and _ _ }
  case h_7 => exact h -- BadVAddr
  case h_8 => split at hw <;> cases hw; exact { h with } -- Count
  case h_9 => exact { h with entryHi := masked_and _ _ }
  case h_10 => split at hw <;> cases hw; exact { h with } -- Compare
  case h_11 e => exact h.withStatus (masked_and _ _) (ksu_of_bit3 v (hv (BitVec.eq_of_toNat_eq e)))
  case h_12 => exact { h with cause := masked_blend _ (by decide) h.cause }
  case h_13 => exact { h with } -- EPC
  case h_14 => exact h -- PRId
  case h_15 => exact { h with config := (blend_and_of_disjoint v _ (by decide)).trans h.config }
  case h_16 => exact { h with } -- ErrorEPC

/-! ## The TLB instructions' registers -/

theorem masked_join_left {w m n : Word} (h : w &&& ~~~m = 0) : w &&& ~~~(m ||| n) = 0 := by
  rw [BitVec.not_or, ← BitVec.and_assoc, h]; exact BitVec.zero_and

theorem masked_join_right {w m n : Word} (h : w &&& ~~~n = 0) : w &&& ~~~(m ||| n) = 0 := by
  rw [BitVec.or_comm]; exact masked_join_left h

/-- Every entry's number fits in the bits of an index (spec/10_state.md R39). -/
theorem State.tlbEntries_le (s : State) : s.tlbEntries ≤ 2 ^ s.indexBits := by
  unfold State.indexBits
  split
  · simpa using ‹s.tlbEntries ≤ 1›
  · have := Nat.lt_log2_self (n := s.tlbEntries - 1); omega

/-- A match found by TLBP is the number of an entry. -/
theorem probeFrom_bound (vpn2 : BitVec 19) (asid : BitVec 8) (l : List TlbEntry) (k : Nat) :
    ∀ j ∈ probeFrom vpn2 asid l k, k ≤ j ∧ j < k + l.length := by
  induction l generalizing k with
  | nil => simp [probeFrom]
  | cons e l ih =>
    intro j hj
    have later : j ∈ probeFrom vpn2 asid l (k + 1) → k ≤ j ∧ j < k + (l.length + 1) := fun hm => by
      have := ih (k + 1) j hm; omega
    rw [List.length_cons]
    rw [probeFrom] at hj
    split at hj
    · rcases List.mem_cons.1 hj with rfl | hm
      · omega
      · exact later hm
    · exact later hj

/-- Index after TLBP has P and the bits of an index only (spec/47_cp0.md R276). -/
theorem State.masked_probe (s : State) : s.probe &&& ~~~(0x80000000#32 ||| s.indexMask) = 0 := by
  unfold State.probe
  split
  · exact masked_join_left (by decide)
  · next i he =>
    have hi := (probeFrom_bound _ _ s.tlb 0 i (he ▸ List.mem_singleton_self i)).2
    exact masked_join_right (masked_ofNat (lt_of_lt_of_le (by simpa [State.tlbEntries] using hi) s.tlbEntries_le))
  · exact masked_and _ _

theorem pageMask_gap (i : Nat) (h : i < 32) : (~~~pageMaskMask)[i] = decide (i < 13 ∨ 29 ≤ i) := by revert i; decide

theorem entryHi_gap (i : Nat) (h : i < 32) : (~~~entryHiMask)[i] = decide (8 ≤ i ∧ i < 13) := by revert i; decide

theorem masked_pageMask (m : BitVec 16) : (m.setWidth 32 <<< 13) &&& ~~~pageMaskMask = 0 := by
  ext i hi
  rw [BitVec.getElem_and, pageMask_gap i hi, BitVec.getElem_shiftLeft]
  by_cases h : 13 ≤ i ∧ i < 29
  · simp [show ¬ 29 ≤ i by omega, show ¬ i < 13 by omega]
  · by_cases hl : i < 13
    · simp [hl]
    · simp [hl, BitVec.getLsbD_of_ge m (i - 13) (by omega)]

theorem masked_entryHi (v : BitVec 19) (a : BitVec 8) : (v ++ 0#5 ++ a : Word) &&& ~~~entryHiMask = 0 := by
  ext i hi
  rw [BitVec.getElem_and, entryHi_gap i hi]
  by_cases h : 8 ≤ i ∧ i < 13
  · rw [BitVec.getElem_append, dif_neg (by omega), BitVec.getElem_append, dif_pos (by omega)]; simp
  · simp [h]

/-- TLBR (spec/47_cp0.md R273). -/
theorem State.regsFromEntry_formed {s : State} (h : s.cp0.Formed s) (e : TlbEntry) : (s.regsFromEntry e).Formed s :=
  { h with
    pageMask := masked_pageMask _
    entryHi := masked_entryHi _ _
    entryLo0 := masked_and _ _
    entryLo1 := masked_and _ _ }

end Sys2Proof.Machine
end

section
/-! What a step may change of the state: the form is kept, and the parts that belong to a family of instructions change
for that family only. One lemma per update of the state, and then one per shared operation. -/
namespace Sys2Proof.Machine

/-- t is in the machine's form if s is, and has the same parameters and number of TLB entries. -/
structure KeepsForm (s t : State) : Prop where
  /-- The parameters. -/
  cfg : t.cfg = s.cfg
  /-- The number of TLB entries. -/
  entries : t.tlbEntries = s.tlbEntries
  /-- The form. -/
  form : s.Inv → t.Inv

/-- t may follow s by an instruction that owns these parts: no other of the parts with an owner has changed
(spec/10_state.md R34, R35, R49, R50, R54, R57). .fprs stands for the whole FPU, .rest for the WAIT flag. -/
structure Follows (own : Part → Prop) (s t : State) : Prop extends KeepsForm s t where
  /-- Memory. -/
  memory : own .memory ∨ t.mem = s.mem
  /-- HI and LO. -/
  hiLo : own .hiLo ∨ (t.hi = s.hi ∧ t.lo = s.lo)
  /-- The FPU registers with their tags, and FCSR. -/
  fpu : own .fprs ∨ (t.fpr = s.fpr ∧ t.fprTag = s.fprTag ∧ t.fcsr = s.fcsr)
  /-- The TLB. -/
  tlb : own .tlb ∨ t.tlb = s.tlb
  /-- LLbit, which any instruction may clear. -/
  link : own .link ∨ (t.llBit = true → s.llBit = true)
  /-- The WAIT flag. -/
  waiting : own .rest ∨ (t.waiting = true → s.waiting = true)
  /-- The inputs to come. -/
  env : t.env = s.env
  /-- The draw counter. -/
  draws : t.draws = s.draws

theorem KeepsForm.refl (s : State) : KeepsForm s s := ⟨rfl, rfl, id⟩

theorem KeepsForm.trans {s u t : State} (h : KeepsForm s u) (g : KeepsForm u t) : KeepsForm s t :=
  ⟨g.cfg.trans h.cfg, g.entries.trans h.entries, g.form ∘ h.form⟩

/-- The form, from its pieces: each is the same, or is again as the form asks. -/
theorem KeepsForm.of_fields {s t : State} (cfg : t.cfg = s.cfg) (entries : t.tlb.length = s.tlb.length)
    (memory : t.mem = s.mem ∨ (Memory.wf s.mem = true → Memory.wf t.mem = true)) (zero : t.gpr[0] = s.gpr[0])
    (fcsr : t.fcsr = s.fcsr ∨ (s.fcsr.extractLsb' 18 5 = 0 → t.fcsr.extractLsb' 18 5 = 0))
    (cp0 : t.cp0 = s.cp0 ∨ (s.Inv → t.cp0.Formed s)) : KeepsForm s t := by
  have hn : t.tlbEntries = s.tlbEntries := entries
  refine ⟨cfg, hn, fun h => ?_⟩
  obtain ⟨hm, hz, hf, he, hc⟩ := s.inv_iff.1 h
  refine t.inv_iff.2 ⟨?_, zero.trans hz, ?_, hn ▸ he, Cp0.Formed.congr ?_ cfg hn⟩
  · exact memory.elim (fun e => e ▸ hm) (· hm)
  · exact fcsr.elim (fun e => e ▸ hf) (· hf)
  · exact cp0.elim (fun e => e ▸ hc) (· h)

section
variable {own : Part → Prop}

theorem Follows.refl (s : State) : Follows own s s :=
  ⟨.refl s, .inr rfl, .inr ⟨rfl, rfl⟩, .inr ⟨rfl, rfl, rfl⟩, .inr rfl, .inr id, .inr id, rfl, rfl⟩

theorem Follows.trans {s u t : State} (h : Follows own s u) (g : Follows own u t) : Follows own s t where
  toKeepsForm := h.toKeepsForm.trans g.toKeepsForm
  memory := h.memory.elim .inl fun a => g.memory.imp_right (·.trans a)
  hiLo := h.hiLo.elim .inl fun a => g.hiLo.imp_right fun b => ⟨b.1.trans a.1, b.2.trans a.2⟩
  fpu := h.fpu.elim .inl fun a => g.fpu.imp_right fun b => ⟨b.1.trans a.1, b.2.1.trans a.2.1, b.2.2.trans a.2.2⟩
  tlb := h.tlb.elim .inl fun a => g.tlb.imp_right (·.trans a)
  link := h.link.elim .inl fun a => g.link.imp_right (a ∘ ·)
  waiting := h.waiting.elim .inl fun a => g.waiting.imp_right (a ∘ ·)
  env := g.env.trans h.env
  draws := g.draws.trans h.draws

/-- From the fields: each is the same, or its owner has changed it and left it in form. -/
theorem Follows.of_fields {s t : State}
    (memory : t.mem = s.mem ∨ (own .memory ∧ (Memory.wf s.mem = true → Memory.wf t.mem = true)))
    (zero : t.gpr[0] = s.gpr[0]) (cp0 : t.cp0 = s.cp0 ∨ (s.Inv → t.cp0.Formed s))
    (hiLo : (t.hi = s.hi ∧ t.lo = s.lo) ∨ own .hiLo) (fprs : (t.fpr = s.fpr ∧ t.fprTag = s.fprTag) ∨ own .fprs)
    (fcsr : t.fcsr = s.fcsr ∨ (own .fprs ∧ (s.fcsr.extractLsb' 18 5 = 0 → t.fcsr.extractLsb' 18 5 = 0)))
    (tlb : t.tlb = s.tlb ∨ (own .tlb ∧ t.tlb.length = s.tlb.length))
    (link : (t.llBit = true → s.llBit = true) ∨ own .link)
    (waiting : (t.waiting = true → s.waiting = true) ∨ own .rest)
    (cfg : t.cfg = s.cfg) (env : t.env = s.env) (draws : t.draws = s.draws) : Follows own s t where
  toKeepsForm := .of_fields cfg (tlb.elim (congrArg List.length) And.right) (memory.imp_right And.right) zero
    (fcsr.imp_right And.right) cp0
  memory := memory.elim .inr fun h => .inl h.1
  hiLo := hiLo.symm
  fpu := fprs.elim (fun a => fcsr.elim (fun b => .inr ⟨a.1, a.2, b⟩) fun b => .inl b.1) .inl
  tlb := tlb.elim .inr fun h => .inl h.1
  link := link.symm
  waiting := waiting.symm
  env := env
  draws := draws

/-! ## Updates that change no part with an owner -/

theorem follows_retire (s : State) (l : List Reg) : Follows own s (s.retire l) := by
  apply Follows.of_fields <;> simp

theorem follows_writeGpr (s : State) (r : Reg) (v : Word) : Follows own s (s.writeGpr r v) := by
  apply Follows.of_fields <;> simp

/-- The write of one register at the end of an instruction. -/
theorem follows_writeBack (s : State) (l : List Reg) (r : Reg) (v : Word) : Follows own s ((s.retire l).writeGpr r v) :=
  (follows_retire s l).trans (follows_writeGpr _ r v)

theorem follows_jumpTo (s : State) (a : Word) : Follows own s (s.jumpTo a) := by
  apply Follows.of_fields <;> simp

theorem follows_fallThrough (s : State) : Follows own s s.fallThrough := by
  apply Follows.of_fields <;> simp

theorem follows_nullifySlot (s : State) (a : Word) : Follows own s (s.nullifySlot a) := by
  apply Follows.of_fields <;> simp

theorem follows_disturbLink (s : State) : Follows own s s.disturbLink := by
  apply Follows.of_fields (link := .inl fun h => (Bool.and_eq_true_iff.1 h).1) <;> simp

theorem follows_finishLoad (s : State) (rt : Reg) (v : Word) : Follows own s (s.finishLoad rt v) :=
  (follows_retire s [rt]).trans ((follows_disturbLink _).trans ((follows_writeGpr _ rt v).trans
    (by apply Follows.of_fields <;> simp [State.finishLoad])))

theorem follows_finishSc (s : State) (rt : Reg) (ok : Bool) : Follows own s (s.finishSc rt ok) :=
  (follows_writeBack s [rt] rt (if ok then 1 else 0)).trans (by apply Follows.of_fields <;> simp [State.finishSc])

theorem follows_spoilEntry (s : State) (hi lo : Bool) (d : DrawSite) (e : Option HiLoRead) :
    Follows own s (s.spoilEntry hi lo d e) := by
  unfold State.spoilEntry
  split
  · split
    · exact follows_writeGpr ..
    · exact .refl s
  · exact .refl s

theorem follows_spoilWindow (s : State) (hi lo : Bool) : Follows own s (s.spoilWindow hi lo) :=
  (follows_spoilEntry s hi lo .window2 s.hist2).trans ((follows_spoilEntry _ hi lo .window1 s.hist1).trans
    (by apply Follows.of_fields <;> simp [State.spoilWindow]))

/-! ## Updates of CP0 -/

/-- New CP0 registers of the form. -/
theorem KeepsForm.withCp0 {s u : State} (h : KeepsForm s u) {c : Cp0} (hc : s.Inv → c.Formed s) :
    KeepsForm s { u with cp0 := c } := by
  refine ⟨h.cfg, h.entries, fun hi => ?_⟩
  obtain ⟨hm, hz, hf, he, _⟩ := u.inv_iff.1 (h.form hi)
  exact (State.inv_iff _).2 ⟨hm, hz, hf, he, (hc hi).congr h.cfg h.entries⟩

theorem Follows.withCp0 {s u : State} (h : Follows own s u) {c : Cp0} (hc : s.Inv → c.Formed s) :
    Follows own s { u with cp0 := c } :=
  { toKeepsForm := h.toKeepsForm.withCp0 hc, memory := h.memory, hiLo := h.hiLo, fpu := h.fpu, tlb := h.tlb,
    link := h.link, waiting := h.waiting, env := h.env, draws := h.draws }

theorem State.Inv.cp0 {s : State} (h : s.Inv) : s.cp0.Formed s := (s.inv_iff.1 h).2.2.2.2

/-- Taking an exception (spec/60_exceptions.md R350). -/
theorem follows_raise (s : State) (x : Exc) : Follows own s (s.raise x) := by
  apply Follows.of_fields (cp0 := .inr fun h => h.cp0.enter x s.restartAddress s.inDelaySlot) <;> simp

/-- Returning from one (spec/46_special.md R266). -/
theorem follows_returnFromException (s : State) : Follows own s s.returnFromException := by
  have cp0 (h : s.Inv) : s.returnFromException.cp0.Formed s := by
    unfold State.returnFromException
    cases he : s.cp0.erl
    · exact h.cp0.putStatus 1 false (by decide) (by omega)
    · exact h.cp0.putStatus 2 false (by decide) (by omega)
  apply Follows.of_fields (cp0 := .inr cp0) <;> simp

/-! ## Updates of a part with an owner -/

/-- Memory that takes new bytes in its canonical form. -/
theorem Follows.ofMemory {s : State} {m : Memory} (own_mem : own .memory)
    (hm : Memory.wf s.mem = true → Memory.wf m = true) : Follows own s { s with mem := m } := by
  apply Follows.of_fields (memory := .inr ⟨own_mem, hm⟩) <;> simp

theorem follows_setByte (h : own .memory) (s : State) (a : Nat) (x : Byte) : Follows own s (s.setByte a x) :=
  .ofMemory h (s.wf_setByte a x)

theorem follows_setHalf (h : own .memory) (s : State) (a : Nat) (v : Half) : Follows own s (s.setHalf a v) := by
  unfold State.setHalf
  split <;> exact (follows_setByte h ..).trans (follows_setByte h ..)

theorem follows_setWord (h : own .memory) (s : State) (a : Nat) (v : Word) : Follows own s (s.setWord a v) := by
  unfold State.setWord
  split <;> exact (follows_setHalf h ..).trans (follows_setHalf h ..)

theorem follows_setDword (h : own .memory) (s : State) (a : Nat) (v : DWord) : Follows own s (s.setDword a v) := by
  unfold State.setDword
  split <;> exact (follows_setWord h ..).trans (follows_setWord h ..)

theorem follows_setLane (h : own .memory) (s : State) (a : Nat) (chosen : Nat → Bool) (w : Word) (k : Nat) :
    Follows own s (s.setLane a chosen w k) := by
  unfold State.setLane
  split
  · exact follows_setByte h ..
  · exact .refl s

theorem follows_setLanes (h : own .memory) (s : State) (a : Nat) (chosen : Nat → Bool) (w : Word) :
    Follows own s (s.setLanes a chosen w) :=
  (follows_setLane h s a chosen w 0).trans ((follows_setLane h _ a chosen w 1).trans
    ((follows_setLane h _ a chosen w 2).trans (follows_setLane h _ a chosen w 3)))

/-- HI, LO and whether the pair is fresh, at the end of an instruction. -/
theorem Follows.withHiLo (h : own .hiLo) {s u : State} (hu : Follows own s u) (hi lo : Word) (fresh : Bool) :
    Follows own s { u with hi := hi, lo := lo, pairFresh := fresh } :=
  hu.trans (by apply Follows.of_fields (hiLo := .inr h) <;> simp)

theorem follows_storeFprAs (h : own .fprs) (s : State) (r : Reg) (fmt : Fmt) (v : BitVec 64) (t : FprTag) :
    Follows own s (s.storeFprAs r fmt v t) := by
  apply Follows.of_fields (fprs := .inr h) <;> simp

theorem follows_storeFpr (h : own .fprs) (s : State) (r : Reg) (fmt : Fmt) (v : BitVec 64) :
    Follows own s (s.storeFpr r fmt v) := follows_storeFprAs h s r fmt v _

theorem follows_storeFpr32 (h : own .fprs) (s : State) (r : Reg) (v : Word) (t : FprTag) :
    Follows own s (s.storeFpr32 r v t) := by
  apply Follows.of_fields (fprs := .inr h) <;> simp

theorem follows_storeFpr64 (h : own .fprs) (s : State) (r : Reg) (v : DWord) (t : FprTag) :
    Follows own s (s.storeFpr64 r v t) := by
  apply Follows.of_fields (fprs := .inr h) <;> simp

theorem follows_fpSpoil (h : own .fprs) (s : State) (d : DrawSite) (r : Reg) (fmt : Fmt) :
    Follows own s (s.fpSpoil d r fmt) := by
  unfold State.fpSpoil
  split
  · exact .refl s
  · exact follows_storeFprAs h ..

/-- A new FCSR whose bits 22..18 are 0 where they were. -/
theorem Follows.withFcsr (h : own .fprs) {s u : State} (hu : Follows own s u) {w : Word}
    (hw : u.fcsr.extractLsb' 18 5 = 0 → w.extractLsb' 18 5 = 0) : Follows own s { u with fcsr := w } :=
  hu.trans (by apply Follows.of_fields (t := { u with fcsr := w }) (fcsr := .inr ⟨h, hw⟩) <;> simp)

/-- The bookkeeping of the conditions leaves bits 22..18 of FCSR (spec/49_fpu_arith.md R301). -/
theorem extract_of_fcsrAfter {old new : Word} {x : FpConds} {gather : Bool} (h : FcsrAfter old new x gather) :
    new.extractLsb' 18 5 = old.extractLsb' 18 5 := by
  have rest : (new &&& 0xFFFC0F83).extractLsb' 18 5 = (old &&& 0xFFFC0F83).extractLsb' 18 5 := by rw [h.2.2]
  have field (w : Word) : (w &&& 0xFFFC0F83).extractLsb' 18 5 = w.extractLsb' 18 5 := by
    rw [BitVec.extractLsb'_and, show (0xFFFC0F83 : Word).extractLsb' 18 5 = BitVec.allOnes 5 by decide,
      BitVec.and_allOnes]
  rwa [field, field] at rest

theorem follows_setFpCc (h : own .fprs) (s : State) (cc : Cc) (b : Bool) : Follows own s (s.setFpCc cc b) := by
  have outside : ccBit cc < 18 ∨ 18 + 5 ≤ ccBit cc := by unfold ccBit; split <;> omega
  have kept := extract_putBit s.fcsr (ccBit cc) 18 5 b (by omega) outside
  exact (Follows.refl s).withFcsr h kept.trans

end
end Sys2Proof.Machine
end

section
/-! Every instruction follows: its next state, if it answers one, is in form and has changed only the parts its family
owns. One lemma per shared operation, then one case per constructor. -/
namespace Sys2Proof.Machine

/-- Every next state that an outcome answers is as P says; a stop or a refusal answers none. -/
def WhenNext (o : Result) (P : State → Prop) : Prop := ∀ t, o = .next t → P t

theorem whenNext_next {t : State} {P : State → Prop} (h : P t) : WhenNext (.next t) P := by
  intro u e; cases e; exact h

theorem whenNext_fault (f : Fault) (P : State → Prop) : WhenNext (.fault f) P := by intro u e; cases e

theorem whenNext_refused (r : Refusal) (P : State → Prop) : WhenNext (.refused r) P := by intro u e; cases e

theorem whenNext_ite {c : Prop} [Decidable c] {o p : Result} {P : State → Prop} (ho : c → WhenNext o P)
    (hp : ¬ c → WhenNext p P) : WhenNext (if c then o else p) P := by
  split
  · exact ho ‹_›
  · exact hp ‹_›

/-- Two checks that pass, one after the other. -/
theorem Acc.bind_ok {α β : Type} {x : Acc α} {f : α → Acc β} {b : β} (h : x.bind f = .ok b) :
    ∃ a, x = .ok a ∧ f a = .ok b := by
  cases x with
  | ok a => exact ⟨a, rfl, h⟩
  | exc e => cases h
  | stop e => cases h

section
variable {own : Part → Prop}

/-- Checks that end in an access: where they do not pass, the exception is taken. -/
theorem outcome_follows {s : State} {x : Acc State} (h : ∀ t, x = .ok t → Follows own s t) :
    WhenNext (x.outcome s) (Follows own s) := by
  cases x with
  | ok t => exact whenNext_next (h t rfl)
  | exc e => exact whenNext_next (follows_raise s e)
  | stop e => exact whenNext_fault e _

theorem withCp0_follows {s : State} {k : Result} (h : WhenNext k (Follows own s)) :
    WhenNext (s.withCp0 k) (Follows own s) :=
  whenNext_ite (fun _ => h) fun _ => whenNext_next (follows_raise s _)

theorem withCp1_follows {s : State} {k : Result} (h : WhenNext k (Follows own s)) :
    WhenNext (s.withCp1 k) (Follows own s) :=
  whenNext_ite (fun _ => h) fun _ => whenNext_next (follows_raise s _)

theorem withEven_follows {s : State} {fmt : Fmt} {l : List Reg} {k : Result} (h : WhenNext k (Follows own s)) :
    WhenNext (s.withEven fmt l k) (Follows own s) :=
  whenNext_ite (fun _ => h) fun _ => whenNext_refused _ _

/-! ## ALU, shifts and traps -/

/-- The write of one register ends the instruction. -/
theorem writeBack_follows (s : State) (l : List Reg) (r : Reg) (v : Word) :
    WhenNext (.next ((s.retire l).writeGpr r v)) (Follows own s) := whenNext_next (follows_writeBack s l r v)

theorem aluTrapping_follows (s : State) (rd : Reg) (v : BitVec 33) :
    WhenNext (s.aluTrapping rd v) (Follows own s) :=
  whenNext_ite (fun _ => whenNext_next (follows_raise s _)) fun _ => writeBack_follows s _ _ _

theorem countBits_follows (s : State) (b : Bool) (rs rt rd : Reg) :
    WhenNext (s.countBits b rs rt rd) (Follows own s) :=
  whenNext_ite (fun _ => writeBack_follows s _ _ _) fun _ => whenNext_refused _ _

theorem condMove_follows (s : State) (rs rt rd : Reg) (cond : Word → Bool) :
    WhenNext (s.condMove rs rt rd cond) (Follows own s) :=
  whenNext_ite (fun _ => writeBack_follows s _ _ _) fun _ => whenNext_next (follows_retire s _)

theorem trapIf_follows (s : State) (holds : Bool) : WhenNext (s.trapIf holds) (Follows own s) :=
  whenNext_ite (fun _ => whenNext_next (follows_raise s _)) fun _ => whenNext_next (follows_retire s _)

/-! ## Branches and jumps -/

/-- Where a branch goes, after the state u that has retired it. -/
theorem Follows.branched {s u : State} (h : Follows own s u) (likely taken : Bool) (cur target : Word) :
    Follows own s (if taken then u.jumpTo target else if likely then u.nullifySlot cur else u.fallThrough) := by
  refine h.trans ?_
  split
  · exact follows_jumpTo ..
  · split
    · exact follows_nullifySlot ..
    · exact follows_fallThrough u

theorem branch_follows (s : State) (likely taken : Bool) (off : Half) :
    WhenNext (s.branch likely taken off) (Follows own s) :=
  whenNext_ite (fun _ => whenNext_refused _ _) fun _ => whenNext_next ((follows_retire s []).branched ..)

theorem branchLink_follows (s : State) (rs : Reg) (likely taken : Bool) (off : Half) :
    WhenNext (s.branchLink rs likely taken off) (Follows own s) :=
  whenNext_ite (fun _ => whenNext_refused _ _) fun _ => whenNext_ite (fun _ => whenNext_refused _ _) fun _ =>
    whenNext_next ((follows_writeBack s [31] 31 (s.pc + 8)).branched ..)

theorem jump_follows (s : State) (link : Option Reg) (target : Word) :
    WhenNext (s.jump link target) (Follows own s) := by
  refine whenNext_ite (fun _ => whenNext_refused _ _) fun _ => whenNext_next ?_
  cases link with
  | none => exact (follows_retire s []).trans (follows_jumpTo ..)
  | some r => exact (follows_writeBack s [r] r _).trans (follows_jumpTo ..)

/-! ## Loads and stores -/

theorem loadGpr_follows (s : State) (base rt : Reg) (off : Half) (n : Nat) (read : PAddr → Acc Word) :
    WhenNext (s.loadGpr base rt off n read) (Follows own s) := by
  refine outcome_follows fun t h => ?_
  obtain ⟨v, -, h⟩ := Acc.bind_ok h
  cases h
  exact follows_finishLoad s rt v

/-- An access that passes its checks and whose last one the platform makes. -/
theorem accept_then {u t : State} {pa : PAddr} {n : Nat} {k : AccessKind} {f : PAddr → State}
    (h : ((u.accept pa n k).bind fun p => .ok (f p)) = .ok t) : ∃ p, t = f p := by
  obtain ⟨p, -, h⟩ := Acc.bind_ok h
  cases h
  exact ⟨p, rfl⟩

theorem putByte_follows (ho : own .memory) {u t : State} {pa : PAddr} {v : Byte} (h : u.putByte pa v = .ok t) :
    Follows own u t := by
  obtain ⟨p, rfl⟩ := accept_then h; exact follows_setByte ho ..

theorem putHalf_follows (ho : own .memory) {u t : State} {pa : PAddr} {v : Half} (h : u.putHalf pa v = .ok t) :
    Follows own u t := by
  obtain ⟨p, rfl⟩ := accept_then h; exact follows_setHalf ho ..

theorem putWord_follows (ho : own .memory) {u t : State} {pa : PAddr} {v : Word} (h : u.putWord pa v = .ok t) :
    Follows own u t := by
  obtain ⟨p, rfl⟩ := accept_then h; exact follows_setWord ho ..

theorem putDword_follows (ho : own .memory) {u t : State} {pa : PAddr} {v : DWord} (h : u.putDword pa v = .ok t) :
    Follows own u t := by
  obtain ⟨p, rfl⟩ := accept_then h; exact follows_setDword ho ..

theorem putLanes_follows (ho : own .memory) {u t : State} {pa : PAddr} {chosen : Nat → Bool} {w : Word}
    (h : u.putLanes pa chosen w = .ok t) : Follows own u t := by
  obtain ⟨p, rfl⟩ := accept_then h; exact follows_setLanes ho ..

/-- An access whose work, done in the state after the instruction, follows. -/
theorem access_follows (s : State) (va : Word) (n : Nat) (k : AccessKind) {work : State → PAddr → Acc State}
    (hw : ∀ u pa t, work u pa = .ok t → Follows own u t) :
    WhenNext (((s.locate va n k).bind (work (s.retire []).disturbLink)).outcome s) (Follows own s) := by
  refine outcome_follows fun t h => ?_
  obtain ⟨pa, -, h⟩ := Acc.bind_ok h
  exact (follows_retire s []).trans ((follows_disturbLink _).trans (hw _ pa t h))

theorem storeGpr_follows (s : State) (base : Reg) (off : Half) (n : Nat) {write : State → PAddr → Acc State}
    (hw : ∀ u pa t, write u pa = .ok t → Follows own u t) :
    WhenNext (s.storeGpr base off n write) (Follows own s) := access_follows s _ n .store hw

/-- LL owns the link (spec/20_memory.md R84). -/
theorem execLl_follows (ho : own .link) (base rt : Reg) (off : Half) (s : State) :
    WhenNext (execLl base rt off s) (Follows own s) := by
  refine outcome_follows fun t h => ?_
  obtain ⟨pa, -, h⟩ := Acc.bind_ok h
  obtain ⟨v, -, h⟩ := Acc.bind_ok h
  cases h
  exact (follows_finishLoad s rt v).trans (by apply Follows.of_fields (link := .inr ho) <;> simp)

theorem execSc_follows (ho : own .memory) (base rt : Reg) (off : Half) (s : State) :
    WhenNext (execSc base rt off s) (Follows own s) := by
  refine outcome_follows fun t h => ?_
  obtain ⟨pa, -, h⟩ := Acc.bind_ok h
  split at h
  · exact (follows_finishSc s rt true).trans (putWord_follows ho h)
  · cases h; exact follows_finishSc s rt false

/-! ## HI and LO -/

theorem multiply_follows (ho : own .hiLo) (s : State) (rs rt : Reg) (f : Word → Word → DWord) :
    WhenNext (s.multiply rs rt f) (Follows own s) :=
  whenNext_next (((follows_spoilWindow s true true).trans (follows_retire _ [])).withHiLo ho ..)

theorem accumulate_follows (ho : own .hiLo) (s : State) (rs rt : Reg) (f : DWord → Word → Word → DWord) :
    WhenNext (s.accumulate rs rt f) (Follows own s) :=
  whenNext_next ((follows_retire s []).withHiLo ho ..)

theorem divide_follows (ho : own .hiLo) (s : State) (rs rt : Reg) (quot rem : Word → Word → Word) :
    WhenNext (s.divide rs rt quot rem) (Follows own s) :=
  whenNext_next (((follows_spoilWindow s true true).trans (follows_retire _ [])).withHiLo ho ..)

theorem moveFrom_follows (s : State) (fromHi : Bool) (rd : Reg) :
    WhenNext (s.moveFrom fromHi rd) (Follows own s) :=
  whenNext_next ((follows_writeBack s [rd] rd (if fromHi then s.hi else s.lo)).trans
    (by apply Follows.of_fields <;> simp))

theorem execMul_follows (ho : own .hiLo) (rs rt rd : Reg) (s : State) :
    WhenNext (execMul rs rt rd s) (Follows own s) :=
  whenNext_next ((follows_writeBack s [rd] rd (s.srcRs rs * s.srcRt rt)).withHiLo ho ..)

theorem execMthi_follows (ho : own .hiLo) (rs : Reg) (s : State) : WhenNext (execMthi rs s) (Follows own s) :=
  whenNext_next (((follows_spoilWindow s true false).trans (follows_retire _ [])).withHiLo ho ..)

theorem execMtlo_follows (ho : own .hiLo) (rs : Reg) (s : State) : WhenNext (execMtlo rs s) (Follows own s) :=
  whenNext_next (((follows_spoilWindow s false true).trans (follows_retire _ [])).withHiLo ho ..)

/-! ## Coprocessor 0 -/

theorem State.Inv.randomIndex_lt {s : State} (h : s.Inv) : s.randomIndex < s.tlbEntries :=
  s.randomIndex_lt h.entries.1

theorem execMfc0_follows (rt rd : Reg) (s : State) : WhenNext (execMfc0 rt rd s) (Follows own s) := by
  refine withCp0_follows (whenNext_next ?_)
  have loaded : Follows own s { (s.retire [rt]).writeGpr rt ((s.readCp0 rd).getD (s.freeWord .cp0Absent)) with
      loadPending := some rt } :=
    (follows_writeBack s [rt] rt ((s.readCp0 rd).getD (s.freeWord .cp0Absent))).trans
      (by apply Follows.of_fields <;> simp)
  refine loaded.withCp0 fun h => ?_
  split
  · exact h.cp0.withRandom h.randomIndex_lt h.entries.2
  · exact h.cp0

theorem execMtc0_follows (rt rd : Reg) (s : State) : WhenNext (execMtc0 rt rd s) (Follows own s) := by
  refine withCp0_follows (whenNext_ite (fun _ => whenNext_refused _ _) fun hm => ?_)
  have mode : rd = 12 → (s.srcRt rt).getLsbD 3 = false := fun e => by simpa [e] using hm
  cases hw : s.writeCp0 rd (s.srcRt rt) with
  | none => exact whenNext_refused _ _
  | some c => exact whenNext_next ((follows_retire s []).withCp0 fun h => s.writeCp0_formed h.cp0 mode hw)

theorem execTlbr_follows (s : State) : WhenNext (execTlbr s) (Follows own s) := by
  refine withCp0_follows ?_
  cases s.tlb[s.indexField]? with
  | none => exact whenNext_fault _ _
  | some e => exact whenNext_next ((follows_retire s []).withCp0 fun h => s.regsFromEntry_formed h.cp0 e)

theorem execTlbp_follows (s : State) : WhenNext (execTlbp s) (Follows own s) :=
  withCp0_follows (whenNext_next ((follows_retire s []).withCp0 fun h => { h.cp0 with index := s.masked_probe }))

theorem writeEntry_follows (ho : own .tlb) (s : State) (i : Nat) : WhenNext (s.writeEntry i) (Follows own s) :=
  whenNext_ite (fun _ => whenNext_next ((follows_retire s []).trans
    (by apply Follows.of_fields (tlb := .inr ⟨ho, by simp⟩) <;> simp))) fun _ => whenNext_fault _ _

theorem execTlbwi_follows (ho : own .tlb) (s : State) : WhenNext (execTlbwi s) (Follows own s) :=
  withCp0_follows (whenNext_ite (fun _ => writeEntry_follows ho s _) fun _ => whenNext_fault _ _)

theorem execTlbwr_follows (ho : own .tlb) (s : State) : WhenNext (execTlbwr s) (Follows own s) := by
  refine withCp0_follows fun t h => ?_
  have drawn : Follows own s { s with cp0 := { s.cp0 with random := BitVec.ofNat 32 s.randomIndex } } :=
    (Follows.refl s).withCp0 fun h => h.cp0.withRandom h.randomIndex_lt h.entries.2
  exact drawn.trans (writeEntry_follows ho _ _ t h)

theorem execEret_follows (s : State) : WhenNext (execEret s) (Follows own s) :=
  whenNext_ite (fun _ => whenNext_refused _ _) fun _ => withCp0_follows (whenNext_next
    ((follows_retire s []).trans (follows_returnFromException _)))

theorem execWait_follows (ho : own .rest) (code : BitVec 19) (s : State) :
    WhenNext (execWait code s) (Follows own s) :=
  whenNext_ite (fun _ => whenNext_refused _ _) fun _ => withCp0_follows (whenNext_next
    ((follows_retire s []).trans (by apply Follows.of_fields (waiting := .inr ho) <;> simp)))

/-! ## The FPU -/

theorem fpFinish_follows (ho : own .fprs) (s : State) (x : FpConds) {write : State → State}
    (hw : ∀ u, Follows own u (write u)) : WhenNext (s.fpFinish x write) (Follows own s) := by
  have cause : Follows own s { s with fcsr := fcsrSetCause s.fcsr x } :=
    (Follows.refl s).withFcsr ho (extract_of_fcsrAfter (fcsrAfter_setCause s.fcsr x)).trans
  have flags : Follows own s { s with fcsr := fcsrOrFlags (fcsrSetCause s.fcsr x) x } :=
    (Follows.refl s).withFcsr ho (extract_of_fcsrAfter (fcsrAfter_orFlags s.fcsr x)).trans
  rw [State.fpFinish_eq]
  exact whenNext_ite (fun _ => whenNext_next (cause.trans (follows_raise _ _))) fun _ =>
    whenNext_next ((flags.trans (follows_retire _ [])).trans (hw _))

/-- What follows from a state that follows. -/
theorem WhenNext.after {s u : State} {o : Result} (h : Follows own s u) (ho : WhenNext o (Follows own u)) :
    WhenNext o (Follows own s) := fun t e => h.trans (ho t e)

theorem fpBinary_follows (ho : own .fprs) (s : State) (i : Instr) (fmt : Fmt)
    (f : FpEnv → FpFormat → FpVal → FpVal → FpOut) (ft fs fd : Reg) :
    WhenNext (s.fpBinary i fmt f ft fs fd) (Follows own s) :=
  withCp1_follows (withEven_follows (.after ((follows_fpSpoil ho s _ fs fmt).trans (follows_fpSpoil ho _ _ ft fmt))
    (fpFinish_follows ho _ _ fun u => follows_storeFpr ho u ..)))

theorem fpUnary_follows (ho : own .fprs) (s : State) (i : Instr) (fmt dst : Fmt) (f : BitVec 64 → FpOut)
    (fs fd : Reg) : WhenNext (s.fpUnary i fmt dst f fs fd) (Follows own s) :=
  withCp1_follows (withEven_follows (withEven_follows (.after (follows_fpSpoil ho s _ fs fmt)
    (fpFinish_follows ho _ _ fun u => follows_storeFpr ho u ..))))

theorem fpSign_follows (ho : own .fprs) (s : State) (i : Instr) (fmt : Fmt) (sign : Bool → Bool) (fs fd : Reg) :
    WhenNext (s.fpSign i fmt sign fs fd) (Follows own s) := fpUnary_follows ho s i fmt fmt _ fs fd

theorem fpRoot_follows (ho : own .fprs) (s : State) (i : Instr) (fmt : Fmt) (fs fd : Reg) :
    WhenNext (s.fpRoot i fmt fs fd) (Follows own s) := fpUnary_follows ho s i fmt fmt _ fs fd

theorem fpCvt_follows (ho : own .fprs) (s : State) (i : Instr) (fmt dst : Fmt) (fs fd : Reg) :
    WhenNext (s.fpCvt i fmt dst fs fd) (Follows own s) := fpUnary_follows ho s i fmt dst _ fs fd

theorem fpToW_follows (ho : own .fprs) (s : State) (i : Instr) (fmt : Fmt) (rm : BitVec 2) (fs fd : Reg) :
    WhenNext (s.fpToW i fmt rm fs fd) (Follows own s) := fpUnary_follows ho s i fmt .w _ fs fd

theorem fpCmp_follows (ho : own .fprs) (s : State) (i : Instr) (fmt : Fmt) (cond : BitVec 4) (ft fs : Reg) (cc : Cc) :
    WhenNext (s.fpCmp i fmt cond ft fs cc) (Follows own s) :=
  withCp1_follows (withEven_follows (.after ((follows_fpSpoil ho s _ fs fmt).trans (follows_fpSpoil ho _ _ ft fmt))
    (fpFinish_follows ho _ _ fun u => follows_setFpCc ho u ..)))

theorem fpMoveIf_follows (ho : own .fprs) (s : State) (i : Instr) (fmt : Fmt) (b c : BitVec 64) (cond : Bool)
    (fs fd : Reg) : WhenNext (s.fpMoveIf i fmt b c cond fs fd) (Follows own s) := by
  refine withCp1_follows (withEven_follows (whenNext_ite (fun _ => fpFinish_follows ho s _ .refl) fun _ =>
    whenNext_ite (fun _ => whenNext_next ?moved) fun _ => whenNext_next ?kept))
  case moved =>
    exact (follows_fpSpoil ho s _ fs fmt).trans ((follows_retire _ []).trans (follows_storeFpr ho _ ..))
  case kept =>
    split
    · exact (follows_retire s []).trans (follows_storeFpr ho _ ..)
    · exact (follows_retire s []).trans (follows_storeFprAs ho _ ..)

theorem fpBranch_follows (ho : own .fprs) (s : State) (i : Instr) (cc : Cc) (likely tf : Bool) (off : Half) :
    WhenNext (s.fpBranch i cc likely tf off) (Follows own s) :=
  whenNext_ite (fun _ => whenNext_refused _ _) fun _ => withCp1_follows
    (whenNext_ite (fun _ => fpFinish_follows ho s _ .refl) fun _ => branch_follows s _ _ _)

theorem loadFpr_follows (s : State) (base : Reg) (off : Half) (n : Nat) {read : State → PAddr → Acc State}
    (hr : ∀ u pa t, read u pa = .ok t → Follows own u t) :
    WhenNext (s.loadFpr base off n read) (Follows own s) := access_follows s _ n .load hr

theorem storeFpu_follows (s : State) (base : Reg) (off : Half) (n : Nat) {write : State → PAddr → Acc State}
    (hw : ∀ u pa t, write u pa = .ok t → Follows own u t) :
    WhenNext (s.storeFpu base off n write) (Follows own s) := access_follows s _ n .store hw

theorem execLwc1_follows (ho : own .fprs) (base ft : Reg) (off : Half) (s : State) :
    WhenNext (execLwc1 base ft off s) (Follows own s) := by
  refine withCp1_follows (loadFpr_follows s _ _ _ fun u pa t h => ?_)
  obtain ⟨v, -, h⟩ := Acc.bind_ok h
  cases h
  exact follows_storeFpr32 ho ..

theorem execLdc1_follows (ho : own .fprs) (base ft : Reg) (off : Half) (s : State) :
    WhenNext (execLdc1 base ft off s) (Follows own s) := by
  refine withCp1_follows (withEven_follows (loadFpr_follows s _ _ _ fun u pa t h => ?_))
  obtain ⟨v, -, h⟩ := Acc.bind_ok h
  cases h
  exact follows_storeFpr64 ho ..

theorem execSwc1_follows (ho : own .memory) (base ft : Reg) (off : Half) (s : State) :
    WhenNext (execSwc1 base ft off s) (Follows own s) :=
  withCp1_follows (storeFpu_follows s _ _ _ fun _ _ _ => putWord_follows ho)

theorem execSdc1_follows (ho : own .memory) (base ft : Reg) (off : Half) (s : State) :
    WhenNext (execSdc1 base ft off s) (Follows own s) :=
  withCp1_follows (withEven_follows (storeFpu_follows s _ _ _ fun _ _ _ => putDword_follows ho))

theorem execMtc1_follows (ho : own .fprs) (rt fs : Reg) (s : State) :
    WhenNext (execMtc1 rt fs s) (Follows own s) :=
  withCp1_follows (whenNext_next ((follows_retire s []).trans (follows_storeFpr32 ho _ _ _ _)))

/-- CTC1: what is written has bits 22..18 of FCSR 0 (spec/48_fpu_move.md R289). -/
theorem State.writeFcr_field {s : State} {fs : Reg} {v w : Word} (h : s.writeFcr fs v = some w)
    (hs : s.fcsr.extractLsb' 18 5 = 0) : w.extractLsb' 18 5 = 0 := by
  unfold State.writeFcr at h
  split at h
  case h_5 => cases h
  all_goals
    obtain ⟨hv, rfl⟩ : v.extractLsb' _ _ = _ ∧ _ = w := by simpa using h
  case h_4 => exact hv -- FCSR
  case h_1 => -- FCCR
    exact ((extract_append_low _ _ 18 5 (by decide)).trans (extract_extract _ _ _ _ _ (by decide))).trans hs
  case h_2 => -- FEXR
    exact ((extract_append_high _ _ 18 5 (by decide)).trans ((extract_append_high _ _ 16 5 (by decide)).trans
      ((extract_append_high _ _ 11 5 (by decide)).trans ((extract_append_high _ _ 6 5 (by decide)).trans
        (extract_extract _ _ _ _ _ (by decide)))))).trans hs
  case h_3 => -- FENR
    exact ((extract_append_high _ _ 18 5 (by decide)).trans ((extract_append_high _ _ 16 5 (by decide)).trans
      ((extract_append_high _ _ 11 5 (by decide)).trans ((extract_append_low _ _ 6 5 (by decide)).trans
        (extract_extract _ _ _ _ _ (by decide)))))).trans hs

theorem execCtc1_follows (ho : own .fprs) (rt fs : Reg) (s : State) :
    WhenNext (execCtc1 rt fs s) (Follows own s) := by
  refine withCp1_follows ?_
  cases hw : s.writeFcr fs (s.srcRt rt) with
  | none => exact whenNext_refused _ _
  | some w =>
    have zero := State.writeFcr_field hw
    refine whenNext_ite (fun _ => whenNext_next ?traps) fun _ => whenNext_next ?written
    case traps => exact ((Follows.refl s).withFcsr ho zero).trans (follows_raise _ _)
    case written => exact (follows_retire s []).withFcsr ho (by simpa using zero)

end
end Sys2Proof.Machine
end

section
/-! Each instruction follows, and with it the statements about owners and about the form. -/
namespace Sys2Proof.Machine

/-- The parts of the state that belong to the instruction's family (spec/10_state.md R34, R35, R49, R50, R54, R57). -/
def owns (i : Instr) : Part → Prop
  | .memory => storesMemory i = true
  | .hiLo => writesHiLo i = true
  | .fprs => usesCp1 i = true
  | .fcsr => usesCp1 i = true
  | .tlb => i = .tlbwi ∨ i = .tlbwr
  | .link => ∃ base rt off, i = .ll base rt off
  | .rest => ∃ code, i = .wait code
  | .gprs => True
  | .cp0 => True

/-- HI and LO belong to their writers. -/
theorem owns_hiLo {i : Instr} (h : writesHiLo i = true) : owns i .hiLo := h

/-- The FPU belongs to the instructions of op 010001. -/
theorem owns_fpu {i : Instr} {rs rt rd sa : BitVec 5} {f : BitVec 6} (h : encode i = wordR 17 rs rt rd sa f) :
    owns i .fprs := by
  show usesCp1 i = true
  simp [usesCp1, h]

/-- Of its branches too. -/
theorem owns_fpu_branch {i : Instr} {rs rt : BitVec 5} {imm : Half} (h : encode i = wordI 17 rs rt imm) :
    owns i .fprs := by
  show usesCp1 i = true
  simp [usesCp1, h]

/-- The FPU's registers belong to its loads. -/
theorem owns_fpu_load {i : Instr} {op : BitVec 6} {rs rt : BitVec 5} {imm : Half} (h : encode i = wordI op rs rt imm)
    (ho : op.toNat ∈ [17, 49, 53, 57, 61]) : owns i .fprs := by
  show decide ((opOf (encode i)).toNat ∈ _) = true
  rw [h, opOf_wordI]; exact decide_eq_true ho

/-- Memory belongs to the stores, by primary opcode (spec/30_encoding.md R109). -/
theorem owns_memory {i : Instr} {op : BitVec 6} {rs rt : BitVec 5} {imm : Half} (h : encode i = wordI op rs rt imm)
    (ho : op.toNat ∈ [40, 41, 42, 43, 46, 56, 57, 61]) : owns i .memory := by
  show decide ((opOf (encode i)).toNat ∈ _) = true
  rw [h, opOf_wordI]; exact decide_eq_true ho

theorem exec_follows (i : Instr) (s : State) : WhenNext (exec i s) (Follows (owns i) s) := by
  unfold exec
  cases i with
  | add | sub | addi => exact aluTrapping_follows s _ _
  | addu | subu | and | or | xor | nor | slt | sltu | sllv | srlv | srav | sll | srl | sra | addiu | slti | sltiu
  | andi | ori | xori | lui | nop | ssnop => exact writeBack_follows s _ _ _
  | movn | movz => exact condMove_follows s _ _ _ _
  | clz | clo => exact countBits_follows s _ _ _ _
  | mult | multu => exact multiply_follows (owns_hiLo rfl) s _ _ _
  | div | divu => exact divide_follows (owns_hiLo rfl) s _ _ _ _
  | madd | maddu | msub | msubu => exact accumulate_follows (owns_hiLo rfl) s _ _ _
  | mul => exact execMul_follows (owns_hiLo rfl) _ _ _ s
  | mfhi | mflo => exact moveFrom_follows s _ _
  | mthi => exact execMthi_follows (owns_hiLo rfl) _ s
  | mtlo => exact execMtlo_follows (owns_hiLo rfl) _ s
  | j | jal | jr => exact jump_follows s _ _
  | jalr => exact whenNext_ite (fun _ => whenNext_refused _ _) fun _ => jump_follows s _ _
  | syscall | brk => exact whenNext_next (follows_raise s _)
  | sync => exact whenNext_next (follows_retire s _)
  | tge | tgeu | tlt | tltu | teq | tne | tgei | tgeiu | tlti | tltiu | teqi | tnei => exact trapIf_follows s _
  | lb | lh | lwl | lw | lbu | lhu | lwr => exact loadGpr_follows s _ _ _ _ _
  | sb => exact storeGpr_follows s _ _ _ fun _ _ _ => putByte_follows (owns_memory rfl (by decide))
  | sh => exact storeGpr_follows s _ _ _ fun _ _ _ => putHalf_follows (owns_memory rfl (by decide))
  | sw => exact storeGpr_follows s _ _ _ fun _ _ _ => putWord_follows (owns_memory rfl (by decide))
  | swl | swr => exact storeGpr_follows s _ _ _ fun _ _ _ => putLanes_follows (owns_memory rfl (by decide))
  | ll base rt off => exact execLl_follows ⟨base, rt, off, rfl⟩ base rt off s
  | sc => exact execSc_follows (owns_memory rfl (by decide)) _ _ _ s
  | beq | bne | beql | bnel | blez | bgtz | blezl | bgtzl | bltz | bgez | bltzl | bgezl | b =>
    exact branch_follows s _ _ _
  | bltzal | bgezal | bltzall | bgezall | bal => exact branchLink_follows s _ _ _ _
  | mfc0 => exact execMfc0_follows _ _ s
  | mtc0 => exact execMtc0_follows _ _ s
  | tlbr => exact execTlbr_follows s
  | tlbwi => exact execTlbwi_follows (.inl rfl) s
  | tlbwr => exact execTlbwr_follows (.inr rfl) s
  | tlbp => exact execTlbp_follows s
  | eret => exact execEret_follows s
  | wait code => exact execWait_follows ⟨code, rfl⟩ code s
  | lwc1 => exact execLwc1_follows (owns_fpu_load rfl (by decide)) _ _ _ s
  | ldc1 => exact execLdc1_follows (owns_fpu_load rfl (by decide)) _ _ _ s
  | swc1 => exact execSwc1_follows (owns_memory rfl (by decide)) _ _ _ s
  | sdc1 => exact execSdc1_follows (owns_memory rfl (by decide)) _ _ _ s
  | mfc1 | cfc1 => exact withCp1_follows (writeBack_follows s _ _ _)
  | mtc1 => exact execMtc1_follows (owns_fpu rfl) _ _ s
  | ctc1 => exact execCtc1_follows (owns_fpu rfl) _ _ s
  | bc1f | bc1fl | bc1t | bc1tl => exact fpBranch_follows (owns_fpu_branch rfl) s _ _ _ _ _
  | addS | addD | subS | subD | mulS | mulD | divS | divD => exact fpBinary_follows (owns_fpu rfl) s _ _ _ _ _ _
  | sqrtS | sqrtD => exact fpRoot_follows (owns_fpu rfl) s _ _ _ _
  | absS | absD | negS | negD => exact fpSign_follows (owns_fpu rfl) s _ _ _ _ _
  | cvtSD | cvtSW | cvtDS | cvtDW => exact fpCvt_follows (owns_fpu rfl) s _ _ _ _ _
  | roundWS | roundWD | truncWS | truncWD | ceilWS | ceilWD | floorWS | floorWD | cvtWS | cvtWD =>
    exact fpToW_follows (owns_fpu rfl) s _ _ _ _ _
  | movS | movD | movfS | movfD | movtS | movtD | movzS | movzD | movnS | movnD =>
    exact fpMoveIf_follows (owns_fpu rfl) s _ _ _ _ _ _ _
  | cFS | cFD | cUnS | cUnD | cEqS | cEqD | cUeqS | cUeqD | cOltS | cOltD | cUltS | cUltD | cOleS | cOleD | cUleS
  | cUleD | cSfS | cSfD | cNgleS | cNgleD | cSeqS | cSeqD | cNglS | cNglD | cLtS | cLtD | cNgeS | cNgeD | cLeS | cLeD
  | cNgtS | cNgtD => exact fpCmp_follows (owns_fpu rfl) s _ _ _ _ _ _

/-- Settles O58: each part of the conclusion is one field of exec_follows, for a family that does not own the part. -/
theorem stateOwners : Obligations.StateOwners := by
  intro i s t h
  have f := exec_follows i s t h
  refine ⟨fun no => ?memory, fun no => ?hiLo, fun no => ?fpu, fun no no' => ?tlb, fun hl => ?link, fun hw => ?waiting,
    f.cfg, f.env, f.draws⟩
  case memory =>
    have hm := f.memory.resolve_left (by simp [owns, no])
    exact fun a => State.byteAt_congr hm a
  case hiLo => exact f.hiLo.resolve_left (by simp [owns, no])
  case fpu =>
    obtain ⟨hr, ht, hf⟩ := f.fpu.resolve_left (by simp [owns, no])
    exact ⟨⟨State.readFpr_congr hr, State.tagOf_congr ht⟩, hf⟩
  case tlb => exact f.tlb.resolve_left (by simp [owns, no, no'])
  case link => exact f.link.symm.imp_left (· hl)
  case waiting => exact f.waiting.symm.imp_left (· hw)

end Sys2Proof.Machine
end

section
/-! A whole step keeps the form: the inputs that are sampled, a reset, an interrupt, the fetch and the instruction. -/
namespace Sys2Proof.Machine

/-! ## The start of a step -/

theorem keepsForm_outsideWrite (s : State) (c : Host.Cell) : KeepsForm s (s.outsideWrite c) := by
  apply KeepsForm.of_fields (memory := .inr (s.wf_outsideWrite c)) <;> simp

theorem keepsForm_outsideWrites (l : List Host.Cell) (s : State) : KeepsForm s (l.foldl State.outsideWrite s) := by
  induction l generalizing s with
  | nil => exact .refl s
  | cons c l ih => exact (keepsForm_outsideWrite s c).trans (ih _)

theorem keepsForm_tick (s : State) : KeepsForm s s.tick := by
  unfold State.tick
  split
  · exact (KeepsForm.refl s).withCp0 fun h => { h.cp0 with }
  · exact .refl s

theorem keepsForm_sampleLines (s : State) (irq : BitVec 6) : KeepsForm s (s.sampleLines irq) :=
  (KeepsForm.refl s).withCp0 fun h => { h.cp0 with cause := masked_blend _ (by decide) h.cp0.cause }

theorem keepsForm_sample (s : State) : KeepsForm s s.sample := by
  have consumed : KeepsForm s { s with env := s.env.tail, draws := s.draws + 1 } := by
    apply KeepsForm.of_fields <;> simp
  exact consumed.trans ((keepsForm_outsideWrites s.input.writes _).trans
    ((keepsForm_tick _).trans (keepsForm_sampleLines _ s.input.irq)))

theorem keepsForm_raise (s : State) (x : Exc) : KeepsForm s (s.raise x) :=
  (follows_raise (own := fun _ => False) s x).toKeepsForm

theorem keepsForm_wake (s : State) : KeepsForm s { s with waiting := false } := by
  apply KeepsForm.of_fields <;> simp

/-! ## Reset (spec/10_state.md R59, spec/60_exceptions.md R357) -/

/-- The CP0 registers after reset. -/
theorem Cp0.formed_reset (s : State) (h : 1 ≤ s.tlbEntries ∧ s.tlbEntries ≤ 64) :
    (Cp0.reset s.cfg s.tlbEntries).Formed s where
  status := show (0x00400004 : Word) &&& ~~~statusMask = 0 by decide
  mode := .inl (show (0x00400004 : Word).extractLsb' 3 2 = 0 by decide)
  cause := BitVec.zero_and
  entryHi := BitVec.zero_and
  pageMask := BitVec.zero_and
  entryLo0 := BitVec.zero_and
  entryLo1 := BitVec.zero_and
  wired := BitVec.zero_and
  index := BitVec.zero_and
  config := rfl
  config1 := rfl
  random := by
    show (BitVec.ofNat 32 (s.tlbEntries - 1)).toNat < _
    rw [BitVec.toNat_ofNat, Nat.mod_eq_of_lt (by omega)]; omega

@[simp] theorem State.tlbEntries_resetWith (cfg : Params) (n : Nat) : (State.resetWith cfg n).tlbEntries = n := by
  simp [State.tlbEntries, State.resetWith]

/-- The state after reset is in form (spec/10_state.md R59). -/
theorem State.inv_resetWith (cfg : Params) {n : Nat} (h1 : 1 ≤ n) (h64 : n ≤ 64) : (State.resetWith cfg n).Inv := by
  have size := State.tlbEntries_resetWith cfg n
  have cp0 := Cp0.formed_reset (State.resetWith cfg n) (by omega)
  rw [size] at cp0
  exact (State.inv_iff _).2 ⟨rfl, by simp [State.resetWith], by simp [State.resetWith], by omega, cp0⟩

theorem keepsForm_coldReset (s : State) : KeepsForm s s.coldReset := by
  have size : s.coldReset.tlbEntries = s.tlbEntries := State.tlbEntries_resetWith s.cfg s.tlbEntries
  refine ⟨rfl, size, fun h => ?_⟩
  obtain ⟨hm, hz, hf, hn, hc⟩ := (State.inv_iff _).1 (State.inv_resetWith s.cfg h.entries.1 h.entries.2)
  refine (State.inv_iff _).2 ⟨hm, hz, hf, hn, ?_⟩
  exact Cp0.Formed.congr (s := State.resetWith s.cfg s.tlbEntries) { hc with } rfl rfl

theorem keepsForm_warmReset (s : State) {bit : Nat} (hb : bit = 20 ∨ bit = 19) : KeepsForm s (s.warmReset bit) := by
  have moved : KeepsForm s { s with
      pc := s.cfg.resetPc, npc := s.cfg.resetPc + 4, inDelaySlot := false, waiting := false } := by
    apply KeepsForm.of_fields <;> simp
  refine moved.withCp0 fun h => ?_
  have boot := (h.cp0.putStatus 2 true (by decide) (by omega)).putStatus 22 true (by decide) (by omega)
  rcases hb with rfl | rfl
  · exact { boot.putStatus 20 true (by decide) (by omega) with }
  · exact { boot.putStatus 19 true (by decide) (by omega) with }

/-! ## The step -/

/-- The state a step has begun with, whether the step is over or an instruction is to run. -/
def Begun.state : Begun → State
  | .done s => s
  | .run s => s

theorem keepsForm_beginSampled (s : State) : KeepsForm s s.beginSampled.state := by
  unfold State.beginSampled
  split
  · exact .refl s
  · split
    · exact (keepsForm_wake s).trans (keepsForm_raise _ _)
    · exact keepsForm_wake s

theorem keepsForm_begin (s : State) : KeepsForm s s.begin.state := by
  refine (keepsForm_sample s).trans ?_
  unfold State.begin
  split
  · exact keepsForm_beginSampled _
  · exact keepsForm_coldReset _
  · exact keepsForm_warmReset _ (.inl rfl)
  · exact keepsForm_warmReset _ (.inr rfl)

theorem keepsForm_settle (s : State) : KeepsForm s s.settle := by
  rcases s.settle_cases with h | ⟨e, -, h⟩
  · rw [h]; exact .refl s
  · rw [h]; apply KeepsForm.of_fields <;> simp

theorem keepsForm_runInstr {s t : State} (h : runInstr s = .next t) : KeepsForm s t := by
  unfold runInstr at h
  split at h
  next i _ =>
    obtain ⟨u, hu, he⟩ := delivered_next _ _ _ h
    have ran := (exec_follows i s u hu).toKeepsForm
    rcases he with rfl | rfl
    · exact ran
    · exact ran.trans (keepsForm_settle u)
  next x _ => cases h; exact keepsForm_raise s x
  next => cases h

theorem keepsForm_step {s t : State} (h : step s = .next t) : KeepsForm s t := by
  have begun := keepsForm_begin s
  unfold step at h
  split at h
  next u hb => cases h; rwa [hb] at begun
  next u hb => rw [hb] at begun; exact begun.trans (keepsForm_runInstr h)

/-- Settles O55. -/
theorem invariantKept : Obligations.InvariantKept := by
  intro s t hs h
  have k := keepsForm_step h
  exact ⟨k.form hs, k.cfg, k.entries⟩

/-- Settles O56. -/
theorem resetInvariant : Obligations.ResetInvariant :=
  ⟨fun cfg _ => State.inv_resetWith cfg, State.inv_resetWith Params.default (by omega) (by omega)⟩

end Sys2Proof.Machine
end

section
/-! What sampling the inputs of a step leaves: the outside writes to memory and the link, the timer, the interrupt lines
(spec/10_state.md R20, R58, spec/60_exceptions.md R360, R368), and what a step starts with. -/
namespace Sys2Proof.Machine

/-! ## Outside writes (spec/20_memory.md R84) -/

/-- Writes from outside change memory and the link only. -/
theorem State.outsideWrites_shape (l : List Host.Cell) (s : State) :
    ∃ m b, l.foldl State.outsideWrite s = { s with mem := m, llBit := b } := by
  induction l generalizing s with
  | nil => exact ⟨_, _, rfl⟩
  | cons c l ih =>
    obtain ⟨m, b, h⟩ := ih (s.outsideWrite c)
    refine ⟨m, b, ?_⟩
    rw [List.foldl_cons, h]
    unfold State.outsideWrite
    split <;> rfl

theorem State.byteAt_outsideWrite (s : State) (c : Host.Cell) (a : Nat) :
    (s.outsideWrite c).byteAt a = if c.1 < 2 ^ s.cfg.psize ∧ c.1 = a then c.2 else s.byteAt a := by
  unfold State.outsideWrite
  by_cases hc : c.1 < 2 ^ s.cfg.psize
  · rw [if_pos hc]
    exact (s.byteAt_setByte c.1 a c.2).trans (by simp [hc, eq_comm])
  · rw [if_neg hc, if_neg (fun h => hc h.1)]

/-- A byte that no write of the physical space names is the same. -/
theorem State.byteAt_outsideWrites (l : List Host.Cell) (s : State) (a : Nat)
    (h : ∀ c ∈ l, c.1 < 2 ^ s.cfg.psize → c.1 ≠ a) : (l.foldl State.outsideWrite s).byteAt a = s.byteAt a := by
  induction l generalizing s with
  | nil => rfl
  | cons c l ih =>
    have first : ¬ (c.1 < 2 ^ s.cfg.psize ∧ c.1 = a) := fun e => h c (List.mem_cons_self ..) e.1 e.2
    have later := ih (s.outsideWrite c) fun d hd => by
      rw [State.outsideWrite_cfg]; exact h d (List.mem_cons_of_mem _ hd)
    rw [List.foldl_cons, later, State.byteAt_outsideWrite, if_neg first]

/-- A byte takes the last write to it, if it is one of the physical space. -/
theorem State.byteAt_outsideWrites_last (before after : List Host.Cell) (s : State) (a : Nat) (v : Byte)
    (h : ∀ c ∈ after, c.1 ≠ a) :
    ((before ++ (a, v) :: after).foldl State.outsideWrite s).byteAt a
      = if a < 2 ^ s.cfg.psize then v else s.byteAt a := by
  obtain ⟨m, b, hb⟩ := State.outsideWrites_shape before s
  have same : (before.foldl State.outsideWrite s).cfg = s.cfg := by rw [hb]
  rw [List.foldl_append, List.foldl_cons, State.byteAt_outsideWrites after _ a (fun c hc _ => h c hc),
    State.byteAt_outsideWrite, same]
  by_cases ha : a < 2 ^ s.cfg.psize
  · rw [if_pos ⟨ha, rfl⟩, if_pos ha]
  · rw [if_neg (fun e => ha e.1), if_neg ha]
    exact State.byteAt_outsideWrites before s a fun c _ hc e => ha (e ▸ hc)

theorem State.llBit_outsideWrite (s : State) (c : Host.Cell) :
    (s.outsideWrite c).llBit = true ↔ s.llBit = true ∧ (c.1 < 2 ^ s.cfg.psize →
      c.1 / s.cfg.llBlockSize ≠ s.llAddr.toNat / s.cfg.llBlockSize) := by
  unfold State.outsideWrite
  split <;> simp [State.inLinkedBlock, *]

/-- The link outlives writes from outside that leave its block alone (spec/20_memory.md R84(a)). -/
theorem State.llBit_outsideWrites (l : List Host.Cell) (s : State) :
    (l.foldl State.outsideWrite s).llBit = true ↔ s.llBit = true ∧ ∀ c ∈ l, c.1 < 2 ^ s.cfg.psize →
      c.1 / s.cfg.llBlockSize ≠ s.llAddr.toNat / s.cfg.llBlockSize := by
  induction l generalizing s with
  | nil => simp
  | cons c l ih =>
    rw [List.foldl_cons, ih, State.llBit_outsideWrite, State.outsideWrite_cfg, State.outsideWrite_llAddr,
      List.forall_mem_cons, and_assoc]

/-! ## The timer and the lines -/

theorem State.tick_cause (s : State) : s.tick.cp0.cause = s.cp0.cause := by unfold State.tick; split <;> rfl

theorem State.tick_status (s : State) : s.tick.cp0.status = s.cp0.status := by unfold State.tick; split <;> rfl

/-- The timer's request shows at the latest where Count equals Compare (spec/60_exceptions.md R368). -/
theorem State.tick_request (s : State) (ht : s.cfg.hasTimer = true)
    (h : s.cp0.count = s.cp0.compare ∨ s.cp0.timerRequest = true) : s.tick.cp0.timerRequest = true := by
  unfold State.tick
  rw [if_pos ht]
  rcases h with h | h <;> simp [h]

theorem lines_mask (i : Nat) (h : i < 32) : (0xFC00 : Word)[i] = decide (10 ≤ i ∧ i < 16) := by revert i; decide

/-- Cause.IP7..IP2 after the lines are written there. -/
theorem blend_lines (q : BitVec 6) (w : Word) : (blend 0xFC00 (q.setWidth 32 <<< 10) w).extractLsb' 10 6 = q := by
  ext i hi
  rw [BitVec.getElem_extractLsb', BitVec.getLsbD_eq_getElem (by omega), getElem_blend, lines_mask _ (by omega),
    if_pos (by simp; omega), BitVec.getElem_shiftLeft]
  simp [hi]

/-! ## The sampled state -/

/-- Sampling changes memory, the link, CP0, the script and the draw counter, and nothing else. -/
theorem State.sample_shape (s : State) :
    ∃ m b c, s.sample = { s with mem := m, llBit := b, cp0 := c, env := s.env.tail, draws := s.draws + 1 } := by
  obtain ⟨m, b, h⟩ := State.outsideWrites_shape s.input.writes { s with env := s.env.tail, draws := s.draws + 1 }
  refine ⟨m, b, s.sample.cp0, ?_⟩
  simp only [State.sample, h, State.sampleLines, State.tick]
  split <;> rfl

theorem State.sample_mem (s : State) :
    s.sample.mem
      = (s.input.writes.foldl State.outsideWrite { s with env := s.env.tail, draws := s.draws + 1 }).mem := by
  simp [State.sample]

theorem State.sample_llBit (s : State) :
    s.sample.llBit
      = (s.input.writes.foldl State.outsideWrite { s with env := s.env.tail, draws := s.draws + 1 }).llBit := by
  simp [State.sample]

/-- The CP0 registers after sampling: those after the tick, with the lines in Cause. -/
theorem State.sample_cp0 (s : State) :
    ∃ u : State, u.cfg = s.cfg ∧ u.cp0 = s.cp0 ∧ s.sample.cp0 = (u.tick.sampleLines s.input.irq).cp0 := by
  obtain ⟨m, b, h⟩ := State.outsideWrites_shape s.input.writes { s with env := s.env.tail, draws := s.draws + 1 }
  exact ⟨_, by rw [h], by rw [h], rfl⟩

@[simp] theorem State.sample_cfg (s : State) : s.sample.cfg = s.cfg := by
  obtain ⟨m, b, c, h⟩ := s.sample_shape; rw [h]
@[simp] theorem State.sample_tlb (s : State) : s.sample.tlb = s.tlb := by
  obtain ⟨m, b, c, h⟩ := s.sample_shape; rw [h]
@[simp] theorem State.sample_pc (s : State) : s.sample.pc = s.pc := by
  obtain ⟨m, b, c, h⟩ := s.sample_shape; rw [h]
@[simp] theorem State.sample_inDelaySlot (s : State) : s.sample.inDelaySlot = s.inDelaySlot := by
  obtain ⟨m, b, c, h⟩ := s.sample_shape; rw [h]
@[simp] theorem State.sample_waiting (s : State) : s.sample.waiting = s.waiting := by
  obtain ⟨m, b, c, h⟩ := s.sample_shape; rw [h]

theorem State.sample_status (s : State) : s.sample.cp0.status = s.cp0.status := by
  obtain ⟨u, -, hc, h⟩ := s.sample_cp0
  rw [h, ← hc]; exact u.tick_status

/-- Sampling leaves the bits of Cause but IP7..IP2. -/
theorem State.sample_causeRest (s : State) : s.sample.cp0.cause &&& 0xFFFF03FF = s.cp0.cause &&& 0xFFFF03FF := by
  obtain ⟨u, -, hc, h⟩ := s.sample_cp0
  rw [h, ← hc, ← u.tick_cause]
  exact blend_and_of_disjoint _ _ (by decide)

/-- Cause.IP7..IP2 are the lines, joined by the timer's request (spec/60_exceptions.md R360, R368). -/
theorem State.sample_lines (s : State) :
    s.sample.cp0.cause.extractLsb' 10 6
      = s.input.irq ||| (if (s.cfg.hasTimer && s.sample.cp0.timerRequest) = true then 0x20 else 0) := by
  obtain ⟨u, hu, -, h⟩ := s.sample_cp0
  have same : (s.cfg.hasTimer && s.sample.cp0.timerRequest) = (u.tick.cfg.hasTimer && u.tick.cp0.timerRequest) := by
    rw [h, State.tick_cfg, hu]; rfl
  rw [same, h]
  exact blend_lines _ _

theorem State.sample_request (s : State) (ht : s.cfg.hasTimer = true)
    (h : s.cp0.count = s.cp0.compare ∨ s.cp0.timerRequest = true) : s.sample.cp0.timerRequest = true := by
  obtain ⟨u, hu, hc, e⟩ := s.sample_cp0
  rw [e]
  exact u.tick_request (hu ▸ ht) (hc ▸ h)

/-! ## Interrupts (spec/60_exceptions.md R361) -/

/-- IE alone of the three low bits of Status. -/
theorem onlyIe_iff (w : Word) :
    w.extractLsb' 0 3 = 1 ↔ w.getLsbD 0 = true ∧ w.getLsbD 1 = false ∧ w.getLsbD 2 = false := by
  have bits : ∀ k : BitVec 3, k = 1 ↔ k.getLsbD 0 = true ∧ k.getLsbD 1 = false ∧ k.getLsbD 2 = false := by decide
  simpa [BitVec.getLsbD_extractLsb'] using bits (w.extractLsb' 0 3)

theorem Cp0.interruptTaken_iff (c : Cp0) :
    c.interruptTaken = true
      ↔ c.status.extractLsb' 0 3 = 1 ∧ c.cause.extractLsb' 8 8 &&& c.status.extractLsb' 8 8 ≠ 0 := by
  rw [onlyIe_iff]
  simp only [Cp0.interruptTaken, Cp0.pending, Bool.and_eq_true, Bool.not_eq_true', decide_eq_true_eq, and_assoc]
  rfl

/-- A step without a reset input starts from the sampled state. -/
theorem State.begin_quiet (s : State) (h : s.input.event = .none) : s.begin = s.sample.beginSampled := by
  unfold State.begin; rw [h]

/-- An interrupt that is to be taken is taken, also by a core that waits (spec/60_exceptions.md R361, R364). -/
theorem State.beginSampled_taken (s : State) (h : s.cp0.interruptTaken = true) :
    s.beginSampled = .done (State.raise { s with waiting := false } .interrupt) := by
  have hp : s.cp0.pending = true := by
    unfold Cp0.interruptTaken at h; exact (Bool.and_eq_true_iff.1 h).2
  simp [State.beginSampled, hp, h]

/-- A core that does not wait and has no interrupt to take runs an instruction. -/
theorem State.beginSampled_run (s : State) (h : s.cp0.interruptTaken = false) (hw : s.waiting = false) :
    s.beginSampled = .run s := by
  have awake : ({ s with waiting := false } : State) = s := by cases s; cases hw; rfl
  simp [State.beginSampled, h, hw, awake]

end Sys2Proof.Machine
end

section
/-! The statements about what a step starts with: interrupts and inputs, resets, the instruction at pc, and the return
from an exception. -/
namespace Sys2Proof.Machine

theorem step_of_done {s t : State} (h : s.begin = .done t) : step s = .next t := by unfold step; rw [h]

theorem step_of_run {s u : State} (h : s.begin = .run u) : step s = runInstr u := by unfold step; rw [h]

/-! ## Interrupts and inputs -/

/-- The interrupt is to be taken (spec/60_exceptions.md R361): IE alone of the low bits of Status, a line unmasked. -/
def TakesInterrupt (c : Cp0) : Prop :=
  c.status.extractLsb' 0 3 = 1 ∧ c.cause.extractLsb' 8 8 &&& c.status.extractLsb' 8 8 ≠ 0

/-- A step without a reset input takes the interrupt that is to be taken, waiting or not. -/
theorem step_takesInterrupt {s : State} (he : s.input.event = .none) (ht : TakesInterrupt s.sample.cp0) :
    step s = .next (State.raise { s.sample with waiting := false } .interrupt) :=
  step_of_done ((s.begin_quiet he).trans (s.sample.beginSampled_taken (s.sample.cp0.interruptTaken_iff.2 ht)))

/-- The entry of an interrupt, which is taken with EXL clear: at the vector that Cause.IV chooses
(spec/60_exceptions.md R362). -/
theorem raise_interrupt {s : State} (ht : TakesInterrupt s.cp0) (w : Bool) :
    RecordsNothing s (State.raise { s with waiting := w } .interrupt)
      ∧ KeepsUnit s (State.raise { s with waiting := w } .interrupt)
      ∧ Enters { s with waiting := w } (State.raise { s with waiting := w } .interrupt) 0
        (if s.cp0.cause.getLsbD 23 then 0x200 else 0x180) := by
  have exl : s.cp0.exl = false := ((onlyIe_iff _).1 ht.1).2.1
  have entry := State.raise_enters { s with waiting := w } .interrupt
  rw [exl] at entry
  exact ⟨State.raise_recordsNothing { s with waiting := w } .interrupt rfl rfl,
    State.raise_keepsUnit { s with waiting := w } .interrupt rfl, entry⟩

/-- Settles O46: what sampling leaves, field by field, and then whether the interrupt is taken. -/
theorem interruptsAndInputs : Obligations.InterruptsAndInputs := by
  intro s
  obtain ⟨m, b, c, shape⟩ := s.sample_shape
  refine ⟨⟨s.cfg.hasTimer && s.sample.cp0.timerRequest, fun ht => by rw [ht]; rfl, fun ht h => ?request,
      s.sample_lines⟩, s.sample_causeRest, s.sample_status, by rw [shape], by rw [shape], by rw [shape], by rw [shape],
    by rw [shape], ?parts, fun a h => ?kept, fun a v before after hl h => ?last, ?link,
    by rw [shape]; exact ⟨rfl, rfl, rfl⟩, fun he =>
      ⟨fun ht => ⟨_, step_takesInterrupt he ht, rfl, raise_interrupt ht false⟩, fun ht hw => ?run⟩⟩
  case request =>
    have hr := s.sample_request ht h
    exact ⟨by rw [ht, hr]; rfl, hr⟩
  case parts =>
    have frame : KeepsAllBut [.link, .cp0, .memory, .rest] s s.sample := by
      rw [shape]; apply keepsAllBut_of_fields <;> simp
    intro p hp
    exact frame p (by revert hp; cases p <;> decide)
  case kept =>
    exact (State.byteAt_congr s.sample_mem a).trans (State.byteAt_outsideWrites _ _ a fun c hc _ => h c hc)
  case last =>
    refine (State.byteAt_congr s.sample_mem a).trans ?_
    rw [hl]
    exact State.byteAt_outsideWrites_last before after _ a v h
  case link => rw [s.sample_llBit]; exact State.llBit_outsideWrites _ _
  case run =>
    have hi : s.sample.cp0.interruptTaken = false :=
      Bool.eq_false_iff.2 fun h => ht (s.sample.cp0.interruptTaken_iff.1 h)
    exact step_of_run ((s.begin_quiet he).trans (s.sample.beginSampled_run hi (by simpa using hw)))

/-! ## Resets (spec/60_exceptions.md R357) -/

theorem State.restartAddress_sample (s : State) : s.sample.restartAddress = s.restartAddress := by
  simp [State.restartAddress]

/-- The three bits a soft reset or an NMI sets, in one word. -/
theorem warmStatus_eq (w : Word) (k : Nat) :
    putBit (putBit (putBit w 2 true) 22 true) k true = w ||| (0x00400004 ||| (1#32 <<< k)) := by
  rw [putBit_true, putBit_true, putBit_true, BitVec.or_assoc, BitVec.or_assoc]
  congr 1
  rw [← BitVec.or_assoc]; rfl

/-- What a soft reset or an NMI leaves of the sampled state, with the bits it sets in one word. -/
theorem State.warmReset_sample (s : State) (k : Nat) {w : Word} (hw : 0x00400004 ||| (1#32 <<< k) = w) :
    let t := s.sample.warmReset k
    t.pc = s.cfg.resetPc ∧ t.npc = s.cfg.resetPc + 4 ∧ t.inDelaySlot = false ∧ t.waiting = false
      ∧ t.cp0 = { s.sample.cp0 with
          errorEpc := if s.inDelaySlot then s.pc - 4 else s.pc, status := s.sample.cp0.status ||| w }
      ∧ ∀ q ∈ [Part.gprs, .hiLo, .link, .tlb, .fprs, .fcsr, .memory], q.same s.sample t := by
  have frame : KeepsAllBut [.cp0, .rest] s.sample (s.sample.warmReset k) := by
    apply keepsAllBut_of_fields <;> simp [State.warmReset]
  refine ⟨congrArg Params.resetPc s.sample_cfg, congrArg (·.resetPc + 4) s.sample_cfg, rfl, rfl, ?_, fun q hq => ?_⟩
  · have restart : s.sample.restartAddress = if s.inDelaySlot then s.pc - 4 else s.pc := s.restartAddress_sample
    rw [← hw, ← warmStatus_eq, ← restart]; rfl
  · exact frame q (by revert hq; cases q <;> decide)

/-- Settles O48. -/
theorem resetInputs : Obligations.ResetInputs := by
  intro s
  refine ⟨fun he => ?cold, ?warm⟩
  case cold =>
    have size : s.sample.tlbEntries = s.tlbEntries := congrArg List.length s.sample_tlb
    have begun : s.begin = .done s.sample.coldReset := by unfold State.begin; rw [he]
    rw [step_of_done begun]
    simp only [State.coldReset, size, State.sample_cfg, State.sample_pc]
    rfl
  case warm =>
    refine List.forall_mem_cons.2 ⟨fun he => ?soft, List.forall_mem_singleton.2 fun he => ?nmi⟩
    case soft =>
      have begun : s.begin = .done (s.sample.warmReset 20) := by unfold State.begin; rw [he]
      exact ⟨_, step_of_done begun, s.warmReset_sample 20 (by decide)⟩
    case nmi =>
      have begun : s.begin = .done (s.sample.warmReset 19) := by unfold State.begin; rw [he]
      exact ⟨_, step_of_done begun, s.warmReset_sample 19 (by decide)⟩

/-! ## The instruction at pc -/

/-- Fetch, translation, acceptance and decoding together (spec/20_memory.md R75). -/
theorem State.nextInstr_of_located {u : State} {pa : PAddr} {i : Instr} (hl : u.locate u.pc 4 .fetch = .ok pa)
    (ha : u.admits pa.toNat 4 .fetch = true) (hd : decode (u.wordAt pa.toNat) = .ok i) : u.nextInstr = .ok i := by
  have accepted : u.accept pa 4 .fetch = .ok pa := by rw [u.accept_eq, if_pos ha]
  simp only [State.nextInstr, State.fetch, hl, Acc.bind, accepted, hd]

theorem step_of_nextInstr {s u : State} {i : Instr} (hb : s.begin = .run u) (hi : u.nextInstr = .ok i) :
    step s = delivered i (exec i u) := by
  rw [step_of_run hb, runInstr, hi]

/-- An MFHI or MFLO, after which settle may free its register (spec/44_muldiv.md R214). -/
theorem State.settle_moveFrom (u : State) (fromHi : Bool) (rd : Reg) :
    ∃ t, u.moveFrom fromHi rd = .next t
      ∧ (t.settle = t ∨ t.settle = { t.writeGpr rd (t.freeWord .window1) with hist1 := none }) := by
  refine ⟨_, rfl, ?_⟩
  rcases State.settle_cases _ with h | ⟨e, he, h⟩
  · exact .inl h
  · right
    have named : e.rd = rd := by
      revert he; dsimp only; split
      · intro he; cases he
      · intro he; cases he; rfl
    rw [h, named]

/-- A core with quiet inputs, no timer and no takeable interrupt runs an instruction in its own state. -/
theorem State.begin_undisturbed {s : State} (hw : s.waiting = false) (he : s.env = []) (ht : s.cfg.hasTimer = false)
    (hi : s.cp0.status.getLsbD 0 = false ∨ s.cp0.exl = true ∨ s.cp0.erl = true) :
    s.begin = .run { s with draws := s.draws + 1, cp0 := { s.cp0 with cause := s.cp0.cause &&& 0xFFFF03FF } } := by
  have quiet : s.input = EnvStep.quiet := by unfold State.input; rw [he]; rfl
  have lines : blend 0xFC00 ((0#6 : BitVec 6).setWidth 32 <<< 10) s.cp0.cause = s.cp0.cause &&& 0xFFFF03FF := by
    have clear : ~~~(0xFC00 : Word) = 0xFFFF03FF := by decide
    have none : (((0#6 : BitVec 6).setWidth 32 : Word) <<< 10) &&& 0xFC00 = 0 := by decide
    rw [blend, none, clear]; exact BitVec.zero_or
  have sampled : s.sample
      = { s with draws := s.draws + 1, cp0 := { s.cp0 with cause := s.cp0.cause &&& 0xFFFF03FF } } := by
    rw [← lines]
    simp [State.sample, quiet, EnvStep.quiet, State.tick, State.sampleLines, ht, he]
  have untaken : s.sample.cp0.interruptTaken = false := by
    refine Bool.eq_false_iff.2 fun h => ?_
    obtain ⟨h0, h1, h2⟩ := (onlyIe_iff _).1 (s.sample.cp0.interruptTaken_iff.1 h).1
    rw [s.sample_status] at h0 h1 h2
    rcases hi with h | h | h
    · rw [h] at h0; cases h0
    · rw [Cp0.exl, h1] at h; cases h
    · rw [Cp0.erl, h2] at h; cases h
  have event : s.input.event = .none := by rw [quiet]; rfl
  rw [s.begin_quiet event, s.sample.beginSampled_run untaken (by simpa using hw), sampled]

/-- Settles O49. -/
theorem stepRunsDecoded : Obligations.StepRunsDecoded := by
  refine ⟨fun s u pa i hb hl ha hd => ?_, fun s => State.begin_undisturbed⟩
  have run := step_of_nextInstr hb (State.nextInstr_of_located hl ha hd)
  refine ⟨fun hn => ?other, fun rd hrd => ?reads⟩
  case other =>
    rw [run]
    refine delivered_eq i _ ?_
    unfold opensWindow
    split
    · exact absurd rfl (hn _).1
    · exact absurd rfl (hn _).2
    · rfl
  case reads =>
    rcases hrd with rfl | rfl
    · obtain ⟨t, ht, hs⟩ := u.settle_moveFrom true rd
      exact ⟨t, ht, run.trans (congrArg (delivered (.mfhi rd)) ht), hs⟩
    · obtain ⟨t, ht, hs⟩ := u.settle_moveFrom false rd
      exact ⟨t, ht, run.trans (congrArg (delivered (.mflo rd)) ht), hs⟩

/-! ## The return from an exception -/

/-- The entry sets EXL alone of Status. -/
theorem State.raise_status (s : State) (x : Exc) : (s.raise x).cp0.status = putBit s.cp0.status 1 true := rfl

theorem getLsbD_putBit (w : Word) (k i : Nat) (b : Bool) (h : i < 32) :
    (putBit w k b).getLsbD i = if i = k then b else w.getLsbD i := by
  rw [BitVec.getLsbD_eq_getElem h, BitVec.getLsbD_eq_getElem h, getElem_putBit]

/-- A bit that was 0, set and cleared again. -/
theorem putBit_restore {w : Word} {k : Nat} (h : w.getLsbD k = false) : putBit (putBit w k true) k false = w := by
  ext i hi
  rw [getElem_putBit, getElem_putBit]
  split
  · next e => subst e; rw [← BitVec.getLsbD_eq_getElem, h]
  · rfl

theorem State.raise_exl (s : State) (x : Exc) : (s.raise x).cp0.exl = true := by
  rw [Cp0.exl, s.raise_status, getLsbD_putBit _ _ _ _ (by omega), if_pos rfl]

theorem State.raise_erl (s : State) (x : Exc) : (s.raise x).cp0.erl = s.cp0.erl := by
  rw [Cp0.erl, s.raise_status, getLsbD_putBit _ _ _ _ (by omega), if_neg (by omega)]; rfl

/-- An exception is handled in kernel mode (spec/60_exceptions.md R365). -/
theorem State.raise_userMode (s : State) (x : Exc) : (s.raise x).userMode = false := by
  rw [State.userMode, s.raise_exl]; simp

/-- ERET outside a delay slot, where coprocessor 0 can be used (spec/46_special.md R266). -/
theorem exec_eret {s : State} (hs : s.inDelaySlot = false) (hu : s.cp0Usable = true) :
    exec .eret s = .next (s.retire []).returnFromException := by
  show execEret s = _
  rw [execEret, hs, s.withCp0_usable _ hu]; rfl

/-- Settles O45. -/
theorem exceptionReturns : Obligations.ExceptionReturns := by
  intro s x
  refine ⟨fun exl erl => ?returns, fun exl => ?nested, s.raise_exl x, s.raise_userMode x⟩
  case returns =>
    have usable : (s.raise x).cp0Usable = true := by rw [State.cp0Usable, s.raise_userMode]; rfl
    have noErl : ((s.raise x).retire []).cp0.erl = false := by rw [State.retire_cp0, s.raise_erl, erl]
    have epc : (s.raise x).cp0.epc = if s.inDelaySlot then s.pc - 4 else s.pc := by
      have := (s.raise_enters x).epc; rwa [exl] at this
    refine ⟨_, exec_eret rfl usable, ?_, rfl, rfl, ?_, ?_⟩
    · rw [← epc]; simp only [State.returnFromException, noErl]; rfl
    · rw [← putBit_restore exl]; simp only [State.returnFromException, noErl]; rfl
    · apply keepsAllBut_of_fields <;> simp
  case nested =>
    have e := s.raise_enters x
    rw [exl] at e
    refine ⟨e.epc.trans (by rw [exl]; rfl), e.bd.trans (by rw [exl]; rfl), e.pc.trans ?_⟩
    cases x <;> rfl

end Sys2Proof.Machine
end

section
/-! The forms of operands, the values after reset, and control transfers in a delay slot. -/
namespace Sys2Proof.Machine

/-! ## Operands -/

/-- A word moved by a signed amount, modulo 2^32 (spec/00_scope.md R8). -/
theorem toNat_add_signed (a d : Word) : ((a + d).toNat : Int) = (a.toNat + d.toInt) % 2 ^ 32 := by
  rw [BitVec.toNat_add, BitVec.toInt_eq_toNat_cond]
  split <;> omega

/-- A source operand is GPR[r], unless the previous instruction loaded r (spec/10_state.md R32). -/
theorem State.source_eq (s : State) (site : DrawSite) (r : Reg) :
    s.source site r = if s.loadPending = some r ∧ r ≠ 0 then s.freeWord site else s.readGpr r := by
  simp [State.source]

/-- The effective address (spec/20_memory.md R68). -/
theorem State.toNat_effAddr (s : State) (base : Reg) (off : Half) :
    ((s.effAddr base off).toNat : Int) = ((s.srcRs base).toNat + off.toInt) % 2 ^ 32 := by
  rw [State.effAddr, BitVec.add_comm, toNat_add_signed, sext16, BitVec.toInt_signExtend_of_le (by omega)]

/-- The target of a branch (spec/30_encoding.md R105). -/
theorem toNat_branchTarget (cur : Word) (off : Half) :
    ((branchTarget cur off).toNat : Int) = (cur.toNat + 4 + 4 * off.toInt) % 2 ^ 32 := by
  have next : ((cur + 4).toNat : Int) = (cur.toNat + 4) % 2 ^ 32 := toNat_add_signed cur 4
  have shifted : ((off ++ 0#2).signExtend 32).toInt = 4 * off.toInt := by
    rw [BitVec.toInt_signExtend_of_le (by omega), BitVec.toInt_append_zero]; rfl
  rw [branchTarget, toNat_add_signed, shifted, next]
  omega

/-- The target of a jump (spec/30_encoding.md R105). -/
theorem toNat_jumpTarget (cur : Word) (idx : BitVec 26) :
    (jumpTarget cur idx).toNat = (cur + 4).toNat / 2 ^ 28 * 2 ^ 28 + 4 * idx.toNat := by
  have region : ((cur + 4).extractLsb' 28 4).toNat = (cur + 4).toNat / 2 ^ 28 := by
    have := (cur + 4).isLt
    rw [BitVec.extractLsb'_toNat, Nat.shiftRight_eq_div_pow]
    omega
  have joined : (jumpTarget cur idx).toNat = ((cur + 4).extractLsb' 28 4 ++ idx ++ 0#2).toNat := rfl
  rw [joined, BitVec.toNat_append, BitVec.toNat_append, ← Nat.shiftLeft_add_eq_or_of_lt idx.isLt,
    ← Nat.shiftLeft_add_eq_or_of_lt (0#2).isLt, region]
  simp only [Nat.shiftLeft_eq, BitVec.toNat_ofNat]
  omega

/-- Settles O7. -/
theorem operandForms : Obligations.OperandForms := by
  intro s
  refine ⟨fun r h => ?zero, fun r h => ?ready, fun r h hp => ?delayed, s.toNat_effAddr, toNat_branchTarget,
    toNat_jumpTarget⟩
  case zero => subst h; simp [State.srcRs, State.srcRt, State.source_eq]
  case ready => simp [State.srcRs, State.srcRt, State.source_eq, h]
  case delayed =>
    constructor
    · rw [State.srcRs, State.source_eq, if_pos ⟨hp, h⟩]
    · rw [State.srcRt, State.source_eq, if_pos ⟨hp, h⟩]

/-! ## Reset (spec/10_state.md R59, R48) -/

/-- The fields of Config that R48 fixes: M, BE, AT and AR, MT. -/
theorem configReset_fields (p : Params) :
    p.configReset.getLsbD 31 = true ∧ p.configReset.getLsbD 15 = p.bigEndianMem
      ∧ p.configReset.extractLsb' 10 5 = 0 ∧ p.configReset.extractLsb' 7 3 = 1 := by
  unfold Params.configReset Params.configFixed
  simp only [BitVec.getLsbD_or, BitVec.getLsbD_and, BitVec.extractLsb'_or, BitVec.extractLsb'_and]
  refine ⟨?_, ?_, ?_, ?_⟩
  · cases p.bigEndianMem <;> simp
  · cases p.bigEndianMem <;> simp
  · rw [show (0x7FFF007F : Word).extractLsb' 10 5 = 0#5 by decide]
    cases p.bigEndianMem <;> simp
  · rw [show (0x7FFF007F : Word).extractLsb' 7 3 = 0#3 by decide]
    cases p.bigEndianMem <;> simp

/-- Config1.CA. -/
theorem config1Reset_ca (p : Params) : p.config1Reset.getLsbD 2 = false := by
  simp [Params.config1Reset]

/-- Settles O47. -/
theorem resetValues : Obligations.ResetValues := by
  refine ⟨fun cfg n => ?_, rfl, rfl, rfl⟩
  obtain ⟨m, be, at', mt⟩ := configReset_fields cfg
  refine ⟨rfl, rfl, rfl, rfl, rfl, rfl, rfl, rfl, rfl, State.readGpr_zero _, rfl, ?kernel, rfl, rfl, m, be, at', mt,
    config1Reset_ca cfg, State.tlbEntries_resetWith cfg n, fun r => ?untagged⟩
  case kernel =>
    have mode : (Cp0.reset cfg n).ksu = 0 := show (0x00400004 : Word).extractLsb' 3 2 = 0 by decide
    simp [State.userMode, State.resetWith, mode]
  case untagged => simp [State.tagOf, State.resetWith]

/-! ## Delay slots (spec/10_state.md R29) -/

section
variable {s : State}

theorem branch_inSlot (h : s.inDelaySlot = true) (likely taken : Bool) (off : Half) :
    s.branch likely taken off = .refused .controlInDelaySlot := (s.branch_cases likely taken off).1 h

theorem branchLink_inSlot (h : s.inDelaySlot = true) (rs : Reg) (likely taken : Bool) (off : Half) :
    s.branchLink rs likely taken off = .refused .controlInDelaySlot := (s.branchLink_cases rs likely taken off).1 h

theorem jump_inSlot (h : s.inDelaySlot = true) (link : Option Reg) (target : Word) :
    s.jump link target = .refused .controlInDelaySlot := (s.jump_cases link target).1 h

/-- JALR with rs = rd is refused for that outside a delay slot only. -/
theorem execJalr_inSlot (h : s.inDelaySlot = true) (rs rd : Reg) :
    execJalr rs rd s = .refused .controlInDelaySlot := by
  rw [execJalr, h, Bool.not_true, Bool.and_false, if_neg (by simp)]
  exact jump_inSlot h _ _

/-- The slot is looked at before the coprocessor. -/
theorem fpBranch_inSlot (h : s.inDelaySlot = true) (i : Instr) (cc : Cc) (likely tf : Bool) (off : Half) :
    s.fpBranch i cc likely tf off = .refused .controlInDelaySlot := if_pos h

end

/-- Settles O23: each instruction of the list is a branch, a linking branch, a jump, a branch of the FPU, ERET or WAIT,
and each of these looks at the slot first. -/
theorem controlInDelaySlotRefused : Obligations.ControlInDelaySlotRefused := by
  intro s rs rt rd off idx cc code h
  simp only [List.forall_mem_cons, List.not_mem_nil, false_imp_iff, implies_true, and_true]
  have branch (likely taken : Bool) := branch_inSlot h likely taken off
  have link (r : Reg) (likely taken : Bool) := branchLink_inSlot h r likely taken off
  have fpu (i : Instr) (likely tf : Bool) := fpBranch_inSlot h i cc likely tf off
  have jump := jump_inSlot h
  exact ⟨branch _ _, branch _ _, branch _ _, branch _ _, branch _ _, branch _ _, branch _ _, branch _ _, branch _ _,
    branch _ _, branch _ _, branch _ _, link _ _ _, link _ _ _, link _ _ _, link _ _ _, branch _ _, link _ _ _,
    jump none (jumpTarget s.pc idx), jump (some 31) (jumpTarget s.pc idx), jump none (s.srcRs rs),
    execJalr_inSlot h rs rd, fpu _ _ _, fpu _ _ _, fpu _ _ _, fpu _ _ _, if_pos h, if_pos h⟩

end Sys2Proof.Machine
end

section
/-! The registers of FPU operations: an odd number for a double word is refused, and everything else completes and keeps
to the registers it names (spec/10_state.md R50, R51, spec/49_fpu_arith.md R304). -/
namespace Sys2Proof.Machine

/-! ## Odd registers -/

/-- One of these numbers is odd. -/
def SomeOdd (l : List Reg) : Prop := ∃ r ∈ l, r.getLsbD 0 = true

/-- Numbers that suit a double word are even. -/
theorem withEven_someOdd (s : State) {l m : List Reg} (k : Result) (hm : ∀ r ∈ l, r ∈ m) (h : SomeOdd l) :
    s.withEven .d m k = .refused .oddDoubleRegister := by
  obtain ⟨r, hr, ho⟩ := h
  exact s.withEven_odd m k r (hm r hr) ho

/-- A refusal by a later check is one whatever this check says. -/
theorem withEven_of_refused (s : State) (fmt : Fmt) (l : List Reg) {k : Result}
    (h : k = .refused .oddDoubleRegister) : s.withEven fmt l k = .refused .oddDoubleRegister := by
  unfold State.withEven
  split
  · exact h
  · rfl

section
variable {s : State} (hu : s.cp1Usable = true)
include hu

theorem fpBinary_odd {i : Instr} {f : FpEnv → FpFormat → FpVal → FpVal → FpOut} {ft fs fd : Reg}
    (h : SomeOdd [ft, fs, fd]) : s.fpBinary i .d f ft fs fd = .refused .oddDoubleRegister := by
  rw [State.fpBinary, s.withCp1_usable _ hu]
  exact withEven_someOdd s _ (by simp) h

theorem fpCmp_odd {i : Instr} {cond : BitVec 4} {ft fs : Reg} {cc : Cc} (h : SomeOdd [fs, ft]) :
    s.fpCmp i .d cond ft fs cc = .refused .oddDoubleRegister := by
  rw [State.fpCmp, s.withCp1_usable _ hu]
  exact withEven_someOdd s _ (by simp) h

theorem fpMoveIf_odd {i : Instr} {b c : BitVec 64} {cond : Bool} {fs fd : Reg} (h : SomeOdd [fs, fd]) :
    s.fpMoveIf i .d b c cond fs fd = .refused .oddDoubleRegister := by
  rw [State.fpMoveIf, s.withCp1_usable _ hu]
  exact withEven_someOdd s _ (by simp) h

/-- A double word as the operand. -/
theorem fpUnary_oddSource {i : Instr} {dst : Fmt} {f : BitVec 64 → FpOut} {fs fd : Reg} (h : SomeOdd [fs]) :
    s.fpUnary i .d dst f fs fd = .refused .oddDoubleRegister := by
  rw [State.fpUnary, s.withCp1_usable _ hu]
  exact withEven_someOdd s _ (by simp) h

/-- A double word as the result. -/
theorem fpUnary_oddResult {i : Instr} {fmt : Fmt} {f : BitVec 64 → FpOut} {fs fd : Reg} (h : SomeOdd [fd]) :
    s.fpUnary i fmt .d f fs fd = .refused .oddDoubleRegister := by
  rw [State.fpUnary, s.withCp1_usable _ hu]
  exact withEven_of_refused s _ _ (withEven_someOdd s _ (by simp) h)

/-- A double word as both. -/
theorem fpUnary_odd {i : Instr} {f : BitVec 64 → FpOut} {fs fd : Reg} (h : SomeOdd [fs, fd]) :
    s.fpUnary i .d .d f fs fd = .refused .oddDoubleRegister := by
  obtain ⟨r, hr, ho⟩ := h
  rcases List.mem_pair.1 hr with rfl | rfl
  · exact fpUnary_oddSource hu ⟨_, List.mem_singleton_self _, ho⟩
  · exact fpUnary_oddResult hu ⟨_, List.mem_singleton_self _, ho⟩

theorem fpSign_odd {i : Instr} {sign : Bool → Bool} {fs fd : Reg} (h : SomeOdd [fs, fd]) :
    s.fpSign i .d sign fs fd = .refused .oddDoubleRegister := fpUnary_odd hu h

theorem fpRoot_odd {i : Instr} {fs fd : Reg} (h : SomeOdd [fs, fd]) :
    s.fpRoot i .d fs fd = .refused .oddDoubleRegister := fpUnary_odd hu h

theorem fpToW_odd {i : Instr} {rm : BitVec 2} {fs fd : Reg} (h : SomeOdd [fs]) :
    s.fpToW i .d rm fs fd = .refused .oddDoubleRegister := fpUnary_oddSource hu h

theorem fpCvt_oddSource {i : Instr} {dst : Fmt} {fs fd : Reg} (h : SomeOdd [fs]) :
    s.fpCvt i .d dst fs fd = .refused .oddDoubleRegister := fpUnary_oddSource hu h

theorem fpCvt_oddResult {i : Instr} {fmt : Fmt} {fs fd : Reg} (h : SomeOdd [fd]) :
    s.fpCvt i fmt .d fs fd = .refused .oddDoubleRegister := fpUnary_oddResult hu h

theorem execLdc1_odd {base ft : Reg} {off : Half} (h : SomeOdd [ft]) :
    execLdc1 base ft off s = .refused .oddDoubleRegister := by
  rw [execLdc1, s.withCp1_usable _ hu]
  exact withEven_someOdd s _ (by simp) h

theorem execSdc1_odd {base ft : Reg} {off : Half} (h : SomeOdd [ft]) :
    execSdc1 base ft off s = .refused .oddDoubleRegister := by
  rw [execSdc1, s.withCp1_usable _ hu]
  exact withEven_someOdd s _ (by simp) h

end

/-! ## What an operation keeps -/

/-- Of the numbers l of this format, those that name a double word. -/
def doubles (fmt : Fmt) (l : List Reg) : List Reg :=
  match fmt with
  | .d => l
  | .s => []
  | .w => []

/-- Even numbers suit a double word, and any number suits the other formats (spec/10_state.md R50). -/
theorem suits_of_even {fmt : Fmt} {l : List Reg} (h : ∀ r ∈ doubles fmt l, r.getLsbD 0 = false) :
    ∀ r ∈ l, fmtSuits fmt r = true := by
  intro r hr
  cases fmt with
  | s => rfl
  | w => rfl
  | d =>
    show (!r.getLsbD 0) = true
    rw [h r hr]; rfl

/-- u is s but for the FPU: the registers of regs with their partners, any tag, and FCSR. -/
def OnlyFpu (regs : List Reg) (s u : State) : Prop :=
  (∃ a b c, u = { s with fpr := a, fprTag := b, fcsr := c })
    ∧ ∀ r, (∀ x ∈ regs, r ≠ x ∧ r ≠ x ^^^ 1) → u.readFpr r = s.readFpr r

/-- An operation has ended, with the trap or with the next instruction, and has kept to these registers. -/
def FpContained (regs : List Reg) (s t : State) : Prop :=
  (Advances s t ∨ (t.pc = s.vector .floatingPoint ∧ t.cp0.cause.extractLsb' 2 5 = 15))
    ∧ KeepsAllBut [.link, .cp0, .fprs, .fcsr] s t
    ∧ ∀ r, (∀ x ∈ regs, r ≠ x ∧ r ≠ x ^^^ 1) → t.readFpr r = s.readFpr r

/-- The outcome is a next state that keeps to these registers. -/
def CompletesWithin (regs : List Reg) (s : State) (o : Result) : Prop := ∃ t, o = .next t ∧ FpContained regs s t

section
variable {regs : List Reg} {s u t : State}

theorem OnlyFpu.refl (regs : List Reg) (s : State) : OnlyFpu regs s s := ⟨⟨_, _, _, rfl⟩, fun _ _ => rfl⟩

theorem OnlyFpu.trans (h : OnlyFpu regs s u) (g : OnlyFpu regs u t) : OnlyFpu regs s t := by
  obtain ⟨⟨a, b, c, rfl⟩, hr⟩ := h
  obtain ⟨⟨a', b', c', rfl⟩, gr⟩ := g
  exact ⟨⟨a', b', c', rfl⟩, fun r hx => (gr r hx).trans (hr r hx)⟩

theorem onlyFpu_fcsr (regs : List Reg) (s : State) (w : Word) : OnlyFpu regs s { s with fcsr := w } :=
  ⟨⟨_, _, _, rfl⟩, fun _ _ => rfl⟩

theorem onlyFpu_storeFprAs {d : Reg} (hd : d ∈ regs) (s : State) (fmt : Fmt) (v : BitVec 64) (tag : FprTag) :
    OnlyFpu regs s (s.storeFprAs d fmt v tag) := by
  have single (w : Word) : OnlyFpu regs s (s.storeFpr32 d w tag) :=
    ⟨⟨_, _, _, rfl⟩, fun r hx => by rw [State.readFpr_storeFpr32, if_neg (hx d hd).1]⟩
  cases fmt with
  | s => exact single _
  | w => exact single _
  | d =>
    refine ⟨⟨_, _, _, rfl⟩, fun r hx => ?_⟩
    have other : r ≠ partner d := (hx d hd).2
    exact (s.readFpr_storeFpr64 d r v tag).trans (by rw [if_neg other, if_neg (hx d hd).1])

theorem onlyFpu_storeFpr {d : Reg} (hd : d ∈ regs) (s : State) (fmt : Fmt) (v : BitVec 64) :
    OnlyFpu regs s (s.storeFpr d fmt v) := onlyFpu_storeFprAs hd s fmt v _

theorem onlyFpu_fpSpoil {d : Reg} (hd : d ∈ regs) (s : State) (site : DrawSite) (fmt : Fmt) :
    OnlyFpu regs s (s.fpSpoil site d fmt) := by
  unfold State.fpSpoil
  split
  · exact .refl regs s
  · exact onlyFpu_storeFprAs hd s fmt _ _

/-- The trap, after the FPU has noted what it notes. -/
theorem OnlyFpu.raise_contained (h : OnlyFpu regs s u) : FpContained regs s (u.raise .floatingPoint) := by
  obtain ⟨⟨a, b, c, rfl⟩, hr⟩ := h
  refine ⟨.inr ⟨rfl, (State.raise_enters _ .floatingPoint).exccode⟩, ?_, fun r hx => ?_⟩
  · apply keepsAllBut_of_fields <;> simp
  · rw [State.readFpr_raise]; exact hr r hx

/-- The end of the instruction, between two changes of the FPU. -/
theorem OnlyFpu.retire_contained (h : OnlyFpu regs s u) (g : OnlyFpu regs (u.retire []) t) : FpContained regs s t := by
  obtain ⟨⟨a, b, c, rfl⟩, hr⟩ := h
  obtain ⟨⟨a', b', c', rfl⟩, gr⟩ := g
  refine ⟨.inl (by simp [Advances]), ?_, fun r hx => ?_⟩
  · apply keepsAllBut_of_fields <;> simp
  · exact (gr r hx).trans ((State.readFpr_retire ..).trans (hr r hx))

theorem fpFinish_contained (h : OnlyFpu regs s u) (x : FpConds) {write : State → State}
    (hw : ∀ v, OnlyFpu regs v (write v)) : CompletesWithin regs s (u.fpFinish x write) := by
  rw [State.fpFinish_eq]
  split
  · exact ⟨_, rfl, (h.trans (onlyFpu_fcsr regs u _)).raise_contained⟩
  · exact ⟨_, rfl, (h.trans (onlyFpu_fcsr regs u _)).retire_contained (hw _)⟩

section
variable (hu : s.cp1Usable = true) {fmt : Fmt} {ft fs fd : Reg}
include hu

theorem fpBinary_contained {i : Instr} {f : FpEnv → FpFormat → FpVal → FpVal → FpOut}
    (h : ∀ r ∈ doubles fmt [ft, fs, fd], r.getLsbD 0 = false) (hft : ft ∈ regs := by simp)
    (hfs : fs ∈ regs := by simp) (hfd : fd ∈ regs := by simp) :
    CompletesWithin regs s (s.fpBinary i fmt f ft fs fd) := by
  have even := suits_of_even h
  rw [State.fpBinary, s.withCp1_usable _ hu, s.withEven_suits _ _ _ fun r hr => even r (by simp at hr ⊢; tauto)]
  exact fpFinish_contained ((onlyFpu_fpSpoil hfs s _ fmt).trans (onlyFpu_fpSpoil hft _ _ fmt)) _
    fun v => onlyFpu_storeFpr hfd v fmt _

theorem fpCmp_contained {i : Instr} {cond : BitVec 4} {cc : Cc}
    (h : ∀ r ∈ doubles fmt [fs, ft], r.getLsbD 0 = false)
    (hft : ft ∈ regs := by simp) (hfs : fs ∈ regs := by simp) :
    CompletesWithin regs s (s.fpCmp i fmt cond ft fs cc) := by
  rw [State.fpCmp, s.withCp1_usable _ hu, s.withEven_suits _ _ _ (suits_of_even h)]
  exact fpFinish_contained ((onlyFpu_fpSpoil hfs s _ fmt).trans (onlyFpu_fpSpoil hft _ _ fmt)) _
    fun v => onlyFpu_fcsr regs v _

theorem fpMoveIf_contained {i : Instr} {b c : BitVec 64} {cond : Bool}
    (h : ∀ r ∈ doubles fmt [fs, fd], r.getLsbD 0 = false)
    (hfs : fs ∈ regs := by simp) (hfd : fd ∈ regs := by simp) :
    CompletesWithin regs s (s.fpMoveIf i fmt b c cond fs fd) := by
  rw [State.fpMoveIf, s.withCp1_usable _ hu, s.withEven_suits _ _ _ (suits_of_even h)]
  split
  · exact fpFinish_contained (.refl regs s) _ (.refl regs)
  · split
    · exact ⟨_, rfl, (onlyFpu_fpSpoil hfs s _ fmt).retire_contained (onlyFpu_storeFpr hfd _ fmt _)⟩
    · refine ⟨_, rfl, (OnlyFpu.refl regs s).retire_contained ?_⟩
      split
      · exact onlyFpu_storeFpr hfd _ fmt _
      · exact onlyFpu_storeFprAs hfd _ fmt _ _

theorem fpUnary_contained {i : Instr} {dst : Fmt} {f : BitVec 64 → FpOut}
    (h : ∀ r ∈ doubles fmt [fs] ++ doubles dst [fd], r.getLsbD 0 = false) (hfs : fs ∈ regs := by simp)
    (hfd : fd ∈ regs := by simp) : CompletesWithin regs s (s.fpUnary i fmt dst f fs fd) := by
  obtain ⟨source, result⟩ := List.forall_mem_append.1 h
  rw [State.fpUnary, s.withCp1_usable _ hu, s.withEven_suits _ _ _ (suits_of_even source),
    s.withEven_suits _ _ _ (suits_of_even result)]
  exact fpFinish_contained (onlyFpu_fpSpoil hfs s _ fmt) _ fun v => onlyFpu_storeFpr hfd v dst _

theorem fpSign_contained {i : Instr} {sign : Bool → Bool}
    (h : ∀ r ∈ doubles fmt [fs] ++ doubles fmt [fd], r.getLsbD 0 = false) (hfs : fs ∈ regs := by simp)
    (hfd : fd ∈ regs := by simp) : CompletesWithin regs s (s.fpSign i fmt sign fs fd) :=
  fpUnary_contained hu h hfs hfd

theorem fpRoot_contained {i : Instr} (h : ∀ r ∈ doubles fmt [fs] ++ doubles fmt [fd], r.getLsbD 0 = false)
    (hfs : fs ∈ regs := by simp) (hfd : fd ∈ regs := by simp) : CompletesWithin regs s (s.fpRoot i fmt fs fd) :=
  fpUnary_contained hu h hfs hfd

theorem fpCvt_contained {i : Instr} {dst : Fmt}
    (h : ∀ r ∈ doubles fmt [fs] ++ doubles dst [fd], r.getLsbD 0 = false) (hfs : fs ∈ regs := by simp)
    (hfd : fd ∈ regs := by simp) : CompletesWithin regs s (s.fpCvt i fmt dst fs fd) :=
  fpUnary_contained hu h hfs hfd

theorem fpToW_contained {i : Instr} {rm : BitVec 2} (h : ∀ r ∈ doubles fmt [fs], r.getLsbD 0 = false)
    (hfs : fs ∈ regs := by simp) (hfd : fd ∈ regs := by simp) : CompletesWithin regs s (s.fpToW i fmt rm fs fd) :=
  fpUnary_contained (dst := .w) hu ((List.append_nil (doubles fmt [fs])).symm ▸ h) hfs hfd

end
end

/-- Settles O40: every instruction of the two lists is one of the FPU's shared operations, on a double word or not. -/
theorem fpuRegisters : Obligations.FpuRegisters := by
  intro s rt ft fs fd cc off hu
  refine ⟨?odd, ?even⟩
  case odd =>
    unfold Refuses exec
    exact List.forall_iff_forall_mem.1 ⟨fpBinary_odd hu, fpBinary_odd hu, fpBinary_odd hu, fpBinary_odd hu,
      fpSign_odd hu, fpSign_odd hu, fpRoot_odd hu, fpToW_odd hu, fpToW_odd hu, fpToW_odd hu, fpToW_odd hu,
      fpToW_odd hu, fpCvt_oddSource hu, fpCvt_oddResult hu, fpCvt_oddResult hu, fpCmp_odd hu, fpCmp_odd hu,
      fpCmp_odd hu, fpCmp_odd hu, fpCmp_odd hu, fpCmp_odd hu, fpCmp_odd hu, fpCmp_odd hu, fpCmp_odd hu, fpCmp_odd hu,
      fpCmp_odd hu, fpCmp_odd hu, fpCmp_odd hu, fpCmp_odd hu, fpCmp_odd hu, fpCmp_odd hu, fpMoveIf_odd hu,
      fpMoveIf_odd hu, fpMoveIf_odd hu, fpMoveIf_odd hu, fpMoveIf_odd hu, execLdc1_odd hu, execSdc1_odd hu⟩
  case even =>
    unfold Completes exec
    exact List.forall_iff_forall_mem.1 ⟨(fpBinary_contained hu ·), (fpBinary_contained hu ·), (fpBinary_contained hu
      ·), (fpBinary_contained hu ·), (fpSign_contained hu ·), (fpSign_contained hu ·), (fpRoot_contained hu ·),
      (fpToW_contained hu ·), (fpToW_contained hu ·), (fpToW_contained hu ·), (fpToW_contained hu ·),
      (fpToW_contained hu ·), (fpCvt_contained hu ·), (fpCvt_contained hu ·), (fpCvt_contained hu ·),
      (fpCmp_contained hu ·), (fpCmp_contained hu ·), (fpCmp_contained hu ·), (fpCmp_contained hu ·),
      (fpCmp_contained hu ·), (fpCmp_contained hu ·), (fpCmp_contained hu ·), (fpCmp_contained hu ·),
      (fpCmp_contained hu ·), (fpCmp_contained hu ·), (fpCmp_contained hu ·), (fpCmp_contained hu ·),
      (fpCmp_contained hu ·), (fpCmp_contained hu ·), (fpCmp_contained hu ·), (fpCmp_contained hu ·),
      (fpMoveIf_contained hu ·), (fpMoveIf_contained hu ·), (fpMoveIf_contained hu ·), (fpMoveIf_contained hu ·),
      (fpMoveIf_contained hu ·), (fpBinary_contained hu ·), (fpBinary_contained hu ·), (fpBinary_contained hu ·),
      (fpBinary_contained hu ·), (fpSign_contained hu ·), (fpSign_contained hu ·), (fpRoot_contained hu ·),
      (fpToW_contained hu ·), (fpToW_contained hu ·), (fpToW_contained hu ·), (fpToW_contained hu ·),
      (fpToW_contained hu ·), (fpCvt_contained hu ·), (fpCmp_contained hu ·), (fpCmp_contained hu ·),
      (fpCmp_contained hu ·), (fpCmp_contained hu ·), (fpCmp_contained hu ·), (fpCmp_contained hu ·),
      (fpCmp_contained hu ·), (fpCmp_contained hu ·), (fpCmp_contained hu ·), (fpCmp_contained hu ·),
      (fpCmp_contained hu ·), (fpCmp_contained hu ·), (fpCmp_contained hu ·), (fpCmp_contained hu ·),
      (fpCmp_contained hu ·), (fpCmp_contained hu ·), (fpMoveIf_contained hu ·), (fpMoveIf_contained hu ·),
      (fpMoveIf_contained hu ·), (fpMoveIf_contained hu ·), (fpMoveIf_contained hu ·)⟩

end Sys2Proof.Machine
end

section
/-! Addresses: the segments and the alignment check before them, and the TLB in numbers (spec/20_memory.md R69 to R72,
R76). -/
namespace Sys2Proof.Machine

/-! ## Translation by segment (spec/20_memory.md R70, R71) -/

section
variable {s : State} {va : Word}

/-- Under ERL, user space is its own physical address, uncached. -/
theorem translate_erl (h : va.toNat < 2 ^ 31) (he : s.cp0.erl = true) (k : AccessKind) :
    s.translate va k = .ok (va.setWidth 36, 2) := by
  rw [State.translate, addressBit31, if_pos (by simpa using h), if_pos he]

theorem translate_kseg0 (h : 2 ^ 31 ≤ va.toNat) (h' : va.toNat < 0xA0000000) (hu : s.userMode = false)
    (k : AccessKind) :
    s.translate va k = .ok ((va - 0x80000000#32).setWidth 36, s.cp0.config.extractLsb' 0 3) := by
  rw [State.translate, addressBit31, if_neg (by simpa using h), hu, if_neg Bool.false_ne_true, segmentBits,
    show va.toNat / 2 ^ 29 % 4 = 0 by omega]
  rfl

theorem translate_kseg1 (h : 0xA0000000 ≤ va.toNat) (h' : va.toNat < 0xC0000000) (hu : s.userMode = false)
    (k : AccessKind) : s.translate va k = .ok ((va - 0xA0000000#32).setWidth 36, 2) := by
  have above : 2 ^ 31 ≤ va.toNat := by omega
  rw [State.translate, addressBit31, if_neg (by simpa using above), hu, if_neg Bool.false_ne_true, segmentBits,
    show va.toNat / 2 ^ 29 % 4 = 1 by omega]
  rfl

end

/-- The physical address of an unmapped segment counts from the segment's base. -/
theorem toNat_segmentOffset {va base : Word} (h : base.toNat ≤ va.toNat) :
    ((va - base).setWidth 36).toNat = va.toNat - base.toNat := by
  rw [BitVec.toNat_setWidth_of_le (by decide), BitVec.toNat_sub_of_le h]

/-! ## The alignment check (spec/20_memory.md R69, R76) -/

section
variable {s : State} {va : Word} {n : Nat}

theorem locate_misaligned (h : va.toNat % n ≠ 0) (k : AccessKind) :
    s.locate va n k = .exc (.addressError va k) := if_pos h

theorem locate_aligned (h : va.toNat % n = 0) (k : AccessKind) :
    s.locate va n k = (s.translate va k).bind (fun p => .ok p.1) := if_neg (not_not_intro h)

end

/-- Settles O12. -/
theorem segmentMap : Obligations.SegmentMap := by
  intro s va k
  refine ⟨fun h he => ⟨_, translate_erl h he k, ?kuseg⟩, s.translate_mapped va k, s.translate_forbidden va k,
    fun h h' hu => ⟨_, translate_kseg0 h h' hu k, toNat_segmentOffset h⟩,
    fun h h' hu => ⟨_, translate_kseg1 h h' hu k, toNat_segmentOffset h⟩,
    fun n => ⟨fun h => locate_misaligned h k, fun h => ?aligned⟩⟩
  case kuseg => exact BitVec.toNat_setWidth_of_le (by decide)
  case aligned =>
    rw [locate_aligned h k]
    refine ⟨fun p c ht => ?_, fun x ht => ?_, fun f ht => ?_⟩ <;> rw [ht] <;> rfl

/-! ## Which entries match (spec/20_memory.md R72) -/

/-- Two page pair numbers agree where the mask lets them count. -/
theorem keep_agrees_iff (e : TlbEntry) (v : BitVec 19) :
    e.vpn2 &&& e.keep = v &&& e.keep
      ↔ ∀ j, j < 19 → e.mask.getLsbD j = false → e.vpn2.getLsbD j = v.getLsbD j := by
  have bit (w : BitVec 19) (j : Nat) (hj : j < 19) :
      (w &&& e.keep).getLsbD j = (w.getLsbD j && !e.mask.getLsbD j) := by
    simp [TlbEntry.keep, hj]
  constructor
  · intro h j hj hm
    have agree := congrArg (BitVec.getLsbD · j) h
    simpa [bit _ _ hj, hm] using agree
  · intro h
    refine BitVec.eq_of_getLsbD_eq fun j hj => ?_
    rw [bit _ _ hj, bit _ _ hj]
    cases hm : e.mask.getLsbD j with
    | true => simp
    | false => rw [h j hj hm]

theorem hits_iff (e : TlbEntry) (va : Word) (asid : BitVec 8) :
    e.hits (va.extractLsb' 13 19) asid = true ↔ (e.g = true ∨ e.asid = asid)
      ∧ ∀ j, j < 19 → e.mask.getLsbD j = false → e.vpn2.getLsbD j = va.getLsbD (13 + j) := by
  have number : (∀ j, j < 19 → e.mask.getLsbD j = false → e.vpn2.getLsbD j = (va.extractLsb' 13 19).getLsbD j)
      ↔ ∀ j, j < 19 → e.mask.getLsbD j = false → e.vpn2.getLsbD j = va.getLsbD (13 + j) := by
    refine forall₂_congr fun j hj => ?_
    rw [BitVec.getLsbD_extractLsb', decide_eq_true hj, Bool.true_and]
  rw [TlbEntry.hits, Bool.and_eq_true, Bool.or_eq_true, decide_eq_true_iff, decide_eq_true_iff, keep_agrees_iff,
    number, and_comm]

/-! ## The page size (spec/10_state.md R42) -/

/-- A word of n low ones. -/
theorem getLsbD_lowOnes {w n i : Nat} {m : BitVec w} (h : m.toNat = 2 ^ n - 1) : m.getLsbD i = decide (i < n) := by
  rw [← BitVec.testBit_toNat, h, Nat.testBit_two_pow_sub_one]

theorem maskOnes_of_lowOnes {m : BitVec 16} {n : Nat} (h : m.toNat = 2 ^ n - 1) (hn : n ≤ 16) : maskOnes m = n := by
  have count : ∀ n ≤ 16, (List.range 16).countP (fun i => decide (i < n)) = n := by decide
  simp only [maskOnes, getLsbD_lowOnes h, count n hn]

/-- The page of the pair, by address bit 12 + n. -/
theorem page_eq {e : TlbEntry} {n : Nat} (h : e.mask.toNat = 2 ^ n - 1) (hn : n ≤ 16) (va : Word) :
    e.page va = if va.toNat / 2 ^ (12 + n) % 2 = 1 then e.odd else e.even := by
  rw [TlbEntry.page, maskOnes_of_lowOnes h hn, ← BitVec.testBit_toNat, Nat.testBit_eq_decide_div_mod_eq]
  simp

/-! ## The physical address (spec/20_memory.md R72) -/

/-- The mask of the offset in a page: 12 + n low ones. -/
theorem toNat_offsetMask {m : BitVec 16} {n : Nat} (h : m.toNat = 2 ^ n - 1) (hn : n ≤ 16) :
    ((m.setWidth 36 <<< 12) ||| 0xFFF : PAddr).toNat = 2 ^ (12 + n) - 1 := by
  refine Nat.eq_of_testBit_eq fun i => ?_
  have small : (0xFFF : PAddr).getLsbD i = decide (i < 12) := getLsbD_lowOnes (n := 12) rfl
  rw [BitVec.testBit_toNat, BitVec.getLsbD_or, BitVec.getLsbD_shiftLeft, BitVec.getLsbD_setWidth, getLsbD_lowOnes h,
    small, Nat.testBit_two_pow_sub_one, Bool.eq_iff_iff]
  simp only [Bool.or_eq_true, Bool.and_eq_true, decide_eq_true_eq, Bool.not_eq_eq_eq_not, Bool.not_true,
    decide_eq_false_iff_not, not_lt]
  omega

/-- The upper part of one word before the lower part of another. -/
theorem toNat_splice {w k : Nat} {m : BitVec w} (h : m.toNat = 2 ^ k - 1) (x y : BitVec w) :
    ((x &&& ~~~m) ||| (y &&& m)).toNat = x.toNat / 2 ^ k * 2 ^ k + y.toNat % 2 ^ k := by
  refine Nat.eq_of_testBit_eq fun i => ?_
  have split := Nat.testBit_two_pow_mul_add (x.toNat / 2 ^ k) (Nat.mod_lt y.toNat (Nat.two_pow_pos k)) i
  rw [Nat.mul_comm, split, BitVec.testBit_toNat, BitVec.getLsbD_or, BitVec.getLsbD_and, BitVec.getLsbD_and,
    BitVec.getLsbD_not, getLsbD_lowOnes h, Nat.testBit_mod_two_pow, Nat.testBit_div_two_pow]
  by_cases hi : i < k
  · simp [hi, BitVec.testBit_toNat]
  · have whole : i - k + k = i := by omega
    simpa [hi, whole, BitVec.testBit_toNat] using BitVec.lt_of_getLsbD

/-- PSIZE bits of an address (spec/20_memory.md R72). -/
theorem toNat_and_psize (q : PAddr) {psize : Nat} (h : psize ≤ 36) :
    (q &&& BitVec.ofNat 36 (2 ^ psize - 1)).toNat = q.toNat % 2 ^ psize := by
  have fits : 2 ^ psize - 1 < 2 ^ 36 := by
    have := Nat.pow_le_pow_right (n := 2) (by decide) h
    have := Nat.two_pow_pos psize
    omega
  rw [BitVec.toNat_and, BitVec.toNat_ofNat, Nat.mod_eq_of_lt fits, Nat.and_two_pow_sub_one_eq_mod]

theorem toNat_physical {e : TlbEntry} {n psize : Nat} (h : e.mask.toNat = 2 ^ n - 1) (hn : n ≤ 16) (hp : psize ≤ 36)
    (va : Word) :
    (e.physical psize va).toNat
      = ((e.page va).pfn.toNat / 2 ^ n * 2 ^ (12 + n) + va.toNat % 2 ^ (12 + n)) % 2 ^ psize := by
  have frame : ((e.page va).pfn.setWidth 36 <<< 12 : PAddr).toNat = (e.page va).pfn.toNat * 2 ^ 12 := by
    have := (e.page va).pfn.isLt
    rw [BitVec.toNat_shiftLeft, BitVec.toNat_setWidth_of_le (by decide), Nat.shiftLeft_eq]
    omega
  have above : (e.page va).pfn.toNat * 2 ^ 12 / 2 ^ (12 + n) = (e.page va).pfn.toNat / 2 ^ n := by
    rw [Nat.pow_add, ← Nat.div_div_eq_div_mul, Nat.mul_div_cancel _ (Nat.two_pow_pos 12)]
  have offset : (va.setWidth 36 : PAddr).toNat = va.toNat := BitVec.toNat_setWidth_of_le (by decide)
  rw [TlbEntry.physical, toNat_and_psize _ hp, toNat_splice (toNat_offsetMask h hn), frame, above, offset]

/-! ## The lookup (spec/20_memory.md R72) -/

section
variable {s : State} {va : Word} {e : TlbEntry}

theorem throughTlb_refill (h : s.tlbHits va = []) (k : AccessKind) :
    s.throughTlb va k = .exc (.tlbRefill va k) := by rw [State.throughTlb, h]

theorem throughTlb_doubled {f : TlbEntry} {l : List TlbEntry} (h : s.tlbHits va = e :: f :: l) (k : AccessKind) :
    s.throughTlb va k = .stop .tlbMultipleMatch := by rw [State.throughTlb, h]

theorem throughTlb_invalid (h : s.tlbHits va = [e]) (hv : (e.page va).v = false) (k : AccessKind) :
    s.throughTlb va k = .exc (.tlbInvalid va k) := by
  rw [s.throughTlb_one va k e h, State.throughPage, hv]; rfl

theorem throughTlb_modified (h : s.tlbHits va = [e]) (hv : (e.page va).v = true) (hd : (e.page va).d = false) :
    s.throughTlb va .store = .exc (.tlbModified va) := by
  rw [s.throughTlb_one va .store e h, State.throughPage, hv, hd]; rfl

theorem throughTlb_valid {k : AccessKind} (h : s.tlbHits va = [e]) (hv : (e.page va).v = true)
    (hd : k = .store → (e.page va).d = true) :
    s.throughTlb va k = .ok (e.physical s.cfg.psize va, (e.page va).c) := by
  rw [s.throughTlb_one va k e h, State.throughPage, hv]
  cases k with
  | store => rw [hd rfl]; rfl
  | load => rfl
  | fetch => rfl

end

/-- Settles O13. -/
theorem tlbTranslation : Obligations.TlbTranslation := by
  intro s va k
  refine ⟨fun e => ?matching, fun h => throughTlb_refill h k, fun e f l h => throughTlb_doubled h k,
    fun e n h hm hn => ?one⟩
  case matching => rw [State.tlbHits, List.mem_filter, hits_iff]; rfl
  case one =>
    rw [← page_eq hm hn va]
    refine ⟨fun hv => throughTlb_invalid h hv k, fun hv hk hd => ?_, fun hv hd hp =>
      ⟨_, throughTlb_valid h hv hd, toNat_physical hm hn hp va⟩⟩
    subst hk
    exact throughTlb_modified h hv hd

end Sys2Proof.Machine
end

section
/-! Memory in numbers: what a read makes of its bytes, and where a write puts them (spec/20_memory.md R63, R66, R67,
R78). -/
namespace Sys2Proof.Machine

/-! ## Reads -/

/-- Two parts as one number. -/
theorem toNat_join {n m : Nat} (hi : BitVec n) (lo : BitVec m) : (hi ++ lo).toNat = lo.toNat + 2 ^ m * hi.toNat := by
  rw [BitVec.toNat_append, ← Nat.shiftLeft_add_eq_or_of_lt lo.isLt, Nat.shiftLeft_eq, Nat.mul_comm, Nat.add_comm]

section
variable (s : State) (a : Nat)

/-- The lower half of the number comes first in little-endian memory, the upper one in big-endian memory. -/
theorem toNat_halfAt : (s.halfAt a).toNat =
    (s.byteAt (a + if s.cfg.bigEndianMem then 1 else 0)).toNat
      + 2 ^ 8 * (s.byteAt (a + if s.cfg.bigEndianMem then 0 else 1)).toNat := by
  unfold State.halfAt
  split <;> exact toNat_join _ _

theorem toNat_wordAt : (s.wordAt a).toNat =
    (s.halfAt (a + if s.cfg.bigEndianMem then 2 else 0)).toNat
      + 2 ^ 16 * (s.halfAt (a + if s.cfg.bigEndianMem then 0 else 2)).toNat := by
  unfold State.wordAt
  split <;> exact toNat_join _ _

theorem toNat_dwordAt : (s.dwordAt a).toNat =
    (s.wordAt (a + if s.cfg.bigEndianMem then 4 else 0)).toNat
      + 2 ^ 32 * (s.wordAt (a + if s.cfg.bigEndianMem then 0 else 4)).toNat := by
  unfold State.dwordAt
  split <;> exact toNat_join _ _

end

/-! ## Writes -/

/-- Two writes, the second to the bytes above those of the first. -/
theorem TakesBytes.append {s u t : State} {a n m : Nat} {f : Nat → Byte} (h : TakesBytes s u a n f)
    (h' : TakesBytes u t (a + n) m (fun k => f (n + k))) : TakesBytes s t a (n + m) f := by
  obtain ⟨lower, outer⟩ := h
  obtain ⟨upper, outer'⟩ := h'
  refine ⟨fun k hk => ?_, fun b hb => (outer' b (by omega)).trans (outer b (by omega))⟩
  by_cases hn : k < n
  · rw [outer' _ (by omega), lower k hn]
  · obtain ⟨j, rfl⟩ := Nat.exists_eq_add_of_le (Nat.le_of_not_lt hn)
    rw [← Nat.add_assoc]
    exact upper j (by omega)

/-- Only the bytes written matter. -/
theorem TakesBytes.congr {s t : State} {a n : Nat} {f g : Nat → Byte} (h : TakesBytes s t a n f)
    (hfg : ∀ k, k < n → f k = g k) : TakesBytes s t a n g :=
  ⟨fun k hk => (h.1 k hk).trans (hfg k hk), h.2⟩

/-- A word of a double word stands first when it is the one the byte order puts first. -/
theorem byteOf_wordOf (big upper : Bool) (v : DWord) {k : Nat} (hk : k < 4) :
    byteOf big 4 k (v.extractLsb' (if upper then 32 else 0) 32) = byteOf big 8 (if upper = big then k else 4 + k) v := by
  have inside : 8 * (if big then 4 - 1 - k else k) + 8 ≤ 32 := by split <;> omega
  rw [byteOf, extract_extract _ _ _ _ _ inside, byteOf]
  congr 1
  cases big <;> cases upper <;> simp <;> omega

section
variable (s : State) (a : Nat)

theorem setByte_takesBytes (v : Byte) : TakesBytes s (s.setByte a v) a 1 (fun _ => v) := by
  refine ⟨fun k hk => ?_, fun b hb => s.byteAt_setByte_ne v (by omega)⟩
  rw [show a + k = a by omega, s.byteAt_setByte_same]

theorem setHalf_takesBytes (v : Half) :
    TakesBytes s (s.setHalf a v) a 2 (fun k => byteOf s.cfg.bigEndianMem 2 k v) := by
  refine ⟨fun k hk => ?_, fun b hb => s.byteAt_setHalf_outside v hb⟩
  obtain rfl | rfl : k = 0 ∨ k = 1 := by omega
  all_goals simp [State.byteAt_setHalf]

theorem setWord_takesBytes (v : Word) :
    TakesBytes s (s.setWord a v) a 4 (fun k => byteOf s.cfg.bigEndianMem 4 k v) := by
  refine ⟨fun k hk => ?_, fun b hb => s.byteAt_setWord_outside v hb⟩
  obtain rfl | rfl | rfl | rfl : k = 0 ∨ k = 1 ∨ k = 2 ∨ k = 3 := by omega
  all_goals simp [State.byteAt_setWord]

/-- One word above the other, the first the one the byte order puts first. -/
theorem setDword_takesBytes (v : DWord) :
    TakesBytes s (s.setDword a v) a 8 (fun k => byteOf s.cfg.bigEndianMem 8 k v) := by
  have two (big : Bool) (hb : s.cfg.bigEndianMem = big) :
      TakesBytes s ((s.setWord a (v.extractLsb' (if big then 32 else 0) 32)).setWord (a + 4)
        (v.extractLsb' (if !big then 32 else 0) 32)) a 8 (fun k => byteOf big 8 k v) := by
    refine TakesBytes.append (n := 4) (m := 4) ((setWord_takesBytes s a _).congr fun k hk => ?_)
      ((setWord_takesBytes _ (a + 4) _).congr fun k hk => ?_)
    · rw [hb, byteOf_wordOf big big v hk, if_pos rfl]
    · rw [State.setWord_cfg, hb, byteOf_wordOf big (!big) v hk, if_neg (by simp)]
  unfold State.setDword
  split
  · next h => rw [h]; exact two true h
  · next h => rw [Bool.eq_false_iff.2 h]; exact two false (Bool.eq_false_iff.2 h)

end

/-- Settles O14. -/
theorem memoryBytes : Obligations.MemoryBytes := by
  intro s a
  refine ⟨?half, ?word, ?dword, fun v => ⟨setByte_takesBytes s a v, ?_⟩,
    fun v => ⟨setHalf_takesBytes s a v, s.halfAt_setHalf a v, ?_⟩,
    fun v => ⟨setWord_takesBytes s a v, s.wordAt_setWord a v, ?_⟩,
    fun v => ⟨setDword_takesBytes s a v, s.dwordAt_setDword a v, ?_⟩,
    fun h v x w d => ⟨s.wf_setByte a v h, s.wf_setHalf a x h, s.wf_setWord a w h, s.wf_setDword a d h⟩⟩
  case half => cases h : s.cfg.bigEndianMem <;> simp [toNat_halfAt, h]
  case word =>
    rw [toNat_wordAt, toNat_halfAt, toNat_halfAt]
    cases h : s.cfg.bigEndianMem <;> simp [Nat.add_assoc] <;> omega
  case dword =>
    simp only [toNat_dwordAt, toNat_wordAt, toNat_halfAt]
    cases h : s.cfg.bigEndianMem <;> simp [Nat.add_assoc] <;> omega
  all_goals apply keepsAllBut_of_fields <;> simp

end Sys2Proof.Machine
end

section
/-! The exceptions of loads, stores and fetches (spec/20_memory.md R69, R72, R75, R76, R80, spec/60_exceptions.md R341
to R344, R351). -/
namespace Sys2Proof.Machine

/-! ## Checks, one after the other -/

theorem Acc.bind_assoc {α β γ : Type} (x : Acc α) (f : α → Acc β) (g : β → Acc γ) :
    (x.bind f).bind g = x.bind (fun a => (f a).bind g) := by
  cases x <;> rfl

/-- What follows a check that fails does not matter. -/
theorem Acc.bind_of_exc {α β : Type} {x : Acc α} {e : Exc} (h : x = .exc e) (f : α → Acc β) : x.bind f = .exc e := by
  rw [h]; rfl

/-! ## Loads and stores: alignment and translation, then the platform -/

/-- ReverseEndian is a matter of Status (spec/20_memory.md R62). -/
theorem reverseEndian_congr {s u : State} (h : u.cp0 = s.cp0) : u.reverseEndian = s.reverseEndian := by
  simp only [State.reverseEndian, State.userMode, h]

section
variable {i : Instr} {s : State} {base rt : Reg} {off : Half} {n size : Nat} {place : PAddr → PAddr}

/-- A load that asks the platform about these bytes before it reads. -/
theorem accessTraps_load {read : PAddr → Acc Word} (he : exec i s = s.loadGpr base rt off n read)
    (hr : ∀ pa, s.accept (place pa) size .load = .exc .busErrorData → read pa = .exc .busErrorData) :
    AccessTraps i s (s.effAddr base off) n .load place size (fun _ => true) := by
  refine accessTraps_of i s _ n .load (by decide) place size _
    (fun pa => (read pa).bind (fun v => .ok (s.finishLoad rt v))) ?checks fun pa _ ha => ?rejected
  case checks => rw [he, State.loadGpr, Acc.bind_assoc]
  case rejected => exact Acc.bind_of_exc (hr pa (s.accept_load_rejected _ _ ha)) _

/-- A store that asks the platform about these bytes before it writes; the state it writes to has the mode of s. -/
theorem accessTraps_store {write : State → PAddr → Acc State} (he : exec i s = s.storeGpr base off n write)
    (hw : ∀ (u : State) pa, u.cp0 = s.cp0 → u.accept (place pa) size .store = .exc .busErrorData →
      write u pa = .exc .busErrorData) :
    AccessTraps i s (s.effAddr base off) n .store place size (fun _ => true) :=
  accessTraps_of i s _ n .store (by decide) place size _ (write (s.retire []).disturbLink) he
    fun pa _ ha => hw _ pa (by simp) (State.accept_store_rejected (by simp) _ _ ha)

end

theorem accessTraps_ll (s : State) (base rt : Reg) (off : Half) :
    AccessTraps (.ll base rt off) s (s.effAddr base off) 4 .load id 4 (fun _ => true) :=
  accessTraps_of _ s _ 4 .load (by decide) id 4 _ _ rfl
    fun pa _ ha => Acc.bind_of_exc (Acc.bind_of_exc (s.accept_load_rejected pa 4 ha) _) _

/-- An SC asks the platform when it succeeds only. -/
theorem accessTraps_sc (s : State) (base rt : Reg) (off : Half) :
    AccessTraps (.sc base rt off) s (s.effAddr base off) 4 .store id 4 (s.scSucceeds (s.effAddr base off)) := by
  refine accessTraps_of _ s _ 4 .store (by decide) id 4 _ _ rfl fun pa hg ha => ?_
  rw [if_pos hg]
  exact Acc.bind_of_exc (State.accept_store_rejected (by simp [State.finishSc]) pa 4 ha) _

/-- A byte load, whatever it makes of the byte. -/
theorem memByte_rejected {s : State} {pa : PAddr} (h : s.accept (s.bytePlace pa) 1 .load = .exc .busErrorData)
    (f : Byte → Acc Word) : (s.memByte pa).bind f = .exc .busErrorData :=
  Acc.bind_of_exc (Acc.bind_of_exc h _) f

theorem memHalf_rejected {s : State} {pa : PAddr} (h : s.accept (s.halfPlace pa) 2 .load = .exc .busErrorData)
    (f : Half → Acc Word) : (s.memHalf pa).bind f = .exc .busErrorData :=
  Acc.bind_of_exc (Acc.bind_of_exc h _) f

theorem memWord_rejected {s : State} {pa : PAddr} (h : s.accept pa 4 .load = .exc .busErrorData) :
    s.memWord pa = .exc .busErrorData := Acc.bind_of_exc h _

theorem putByte_rejected {s u : State} {pa : PAddr} (hc : u.cp0 = s.cp0)
    (h : u.accept (s.bytePlace pa) 1 .store = .exc .busErrorData) (v : Byte) :
    u.putByte pa v = .exc .busErrorData := by
  rw [State.bytePlace, ← reverseEndian_congr hc] at h
  exact Acc.bind_of_exc h _

theorem putHalf_rejected {s u : State} {pa : PAddr} (hc : u.cp0 = s.cp0)
    (h : u.accept (s.halfPlace pa) 2 .store = .exc .busErrorData) (v : Half) :
    u.putHalf pa v = .exc .busErrorData := by
  rw [State.halfPlace, ← reverseEndian_congr hc] at h
  exact Acc.bind_of_exc h _

theorem putWord_rejected {u : State} {pa : PAddr} (h : u.accept pa 4 .store = .exc .busErrorData) (v : Word) :
    u.putWord pa v = .exc .busErrorData := Acc.bind_of_exc h _

theorem putLanes_rejected {u : State} {pa : PAddr} (h : u.accept (wordPlace pa) 4 .store = .exc .busErrorData)
    (chosen : Nat → Bool) (w : Word) : u.putLanes pa chosen w = .exc .busErrorData := Acc.bind_of_exc h _

/-- Settles O20: every load and store asks the platform once, before it reads or writes. -/
theorem accessFaults : Obligations.AccessFaults := by
  intro s base rt off
  simp only [List.forall_mem_cons, List.not_mem_nil, false_imp_iff, implies_true, and_true]
  have byte {i : Instr} {f : Byte → Acc Word}
      (he : exec i s = s.loadGpr base rt off 1 fun pa => (s.memByte pa).bind f) := accessTraps_load
        (place := s.bytePlace) he fun _ h => memByte_rejected h f
  have half {i : Instr} {f : Half → Acc Word}
      (he : exec i s = s.loadGpr base rt off 2 fun pa => (s.memHalf pa).bind f) := accessTraps_load
        (place := s.halfPlace) he fun _ h => memHalf_rejected h f
  have part {i : Instr} {f : Word → Acc Word}
      (he : exec i s = s.loadGpr base rt off 1 fun pa => (s.memWord (wordPlace pa)).bind f) := accessTraps_load
        he fun _ h => Acc.bind_of_exc (memWord_rejected h) f
  have lanes {i : Instr} {chosen : Nat → Bool} {w : Word}
      (he : exec i s = s.storeGpr base off 1 fun u pa => u.putLanes pa chosen w) := accessTraps_store
        he fun _ _ _ h => putLanes_rejected h chosen w
  exact ⟨byte rfl, byte rfl, half rfl, half rfl, accessTraps_load rfl fun _ => memWord_rejected,
    accessTraps_ll s base rt off, part rfl, part rfl, accessTraps_store rfl fun _ _ hc h => putByte_rejected hc h _,
    accessTraps_store rfl fun _ _ hc h => putHalf_rejected hc h _,
    accessTraps_store rfl fun _ _ _ h => putWord_rejected h _, lanes rfl, lanes rfl, accessTraps_sc s base rt off⟩

/-! ## What the checks of an access answer -/

section
variable {s : State} {va : Word} {n : Nat}

theorem locate_of_exc {k : AccessKind} {x : Exc} (h : va.toNat % n = 0) (ht : s.translate va k = .exc x) :
    s.locate va n k = .exc x := by
  rw [locate_aligned h, ht]; rfl

/-- An address that is misaligned, or outside user space in user mode. -/
theorem locate_addressError (k : AccessKind)
    (h : va.toNat % n ≠ 0 ∨ (s.userMode = true ∧ 2 ^ 31 ≤ va.toNat)) :
    s.locate va n k = .exc (.addressError va k) := by
  by_cases h0 : va.toNat % n = 0
  · obtain ⟨hu, hv⟩ := h.resolve_left (not_not_intro h0)
    exact locate_of_exc h0 (s.translate_forbidden va k hv hu)
  · exact locate_misaligned h0 k

theorem locate_mapped (h : va.toNat % n = 0) (hm : Mapped s va) (k : AccessKind) :
    s.locate va n k = (s.throughTlb va k).bind (fun p => .ok p.1) := by
  rw [locate_aligned h, s.translate_mapped va k hm]

end

/-! ## What an exception records (spec/60_exceptions.md R342, R343, R351) -/

theorem raise_enters_at {s : State} {x : Exc} {offset : Word} (h : x.offset s.cp0.exl s.cp0.iv = offset) :
    Enters s (s.raise x) x.code offset := h ▸ s.raise_enters x

theorem enters_fetchAddressError (s : State) (va : Word) :
    EntersAddressError s (s.raise (.addressError va .fetch)) 4 va :=
  ⟨raise_enters_at (by cases s.cp0.exl <;> rfl), s.raise_recordsAddress va .fetch, s.raise_keepsUnit _ rfl⟩

/-- The vector of its own is for a Refill outside any handler. -/
theorem enters_fetchRefill (s : State) (va : Word) :
    EntersTlb s (s.raise (.tlbRefill va .fetch)) 2 (if s.cp0.exl then 0x180 else 0) va :=
  ⟨raise_enters_at (by cases s.cp0.exl <;> rfl), s.raise_recordsPage _ va rfl rfl, s.raise_keepsUnit _ rfl⟩

theorem enters_fetchInvalid (s : State) (va : Word) :
    EntersTlb s (s.raise (.tlbInvalid va .fetch)) 2 0x180 va :=
  ⟨raise_enters_at (by cases s.cp0.exl <;> rfl), s.raise_recordsPage _ va rfl rfl, s.raise_keepsUnit _ rfl⟩

theorem enters_fetchBusError (s : State) : EntersPlain s (s.raise .busErrorFetch) 6 :=
  ⟨raise_enters_at (by cases s.cp0.exl <;> rfl), s.raise_recordsNothing _ rfl rfl, s.raise_keepsUnit _ rfl⟩

/-! ## Fetches (spec/20_memory.md R75) -/

section
variable {s u : State} (hb : s.begin = .run u)
include hb

theorem step_of_fetchExc {x : Exc} (h : u.fetch = .exc x) : step s = .next (u.raise x) := by
  rw [step_of_run hb, runInstr, State.nextInstr, h]; rfl

theorem step_of_locateExc {x : Exc} (h : u.locate u.pc 4 .fetch = .exc x) : step s = .next (u.raise x) :=
  step_of_fetchExc hb (Acc.bind_of_exc h _)

theorem step_of_locateStop {f : Fault} (h : u.locate u.pc 4 .fetch = .stop f) : step s = .fault f := by
  rw [step_of_run hb, runInstr, State.nextInstr, State.fetch, h]; rfl

end

/-- Settles O50. -/
theorem fetchFaults : Obligations.FetchFaults := by
  intro s u hb enters
  refine ⟨fun h => ⟨_, step_of_locateExc hb (locate_addressError .fetch h), enters_fetchAddressError u u.pc⟩,
    fun h0 hm => ?mapped, fun pa hl ha => ?rejected⟩
  case mapped =>
    have located := locate_mapped h0 hm .fetch
    refine ⟨fun h => ⟨_, step_of_locateExc hb ?_, enters_fetchRefill u u.pc⟩,
      fun e h hv => ⟨_, step_of_locateExc hb ?_, enters_fetchInvalid u u.pc⟩, fun e h hv => ?_,
      fun e f l h => step_of_locateStop hb ?_⟩
    · rw [located, throughTlb_refill h]; rfl
    · rw [located, throughTlb_invalid h hv]; rfl
    · rw [located, throughTlb_valid h hv (by simp)]; rfl
    · rw [located, throughTlb_doubled h]; rfl
  case rejected =>
    have refused : u.fetch = .exc .busErrorFetch := by
      rw [State.fetch, hl]
      exact Acc.bind_of_exc (x := u.accept pa 4 .fetch) (by rw [u.accept_eq, ha]; rfl) _
    exact ⟨_, step_of_fetchExc hb refused, enters_fetchBusError u⟩

end Sys2Proof.Machine
end

section
/-! Words and their fields. The encoder builds a word from fields and the decoder reads fields from a word: each kind of
word is its fields and nothing else (spec/30_encoding.md R101, R103). -/
namespace Sys2Proof

/-! ## A word is its fields (spec/30_encoding.md R101, R103) -/

theorem wordR_eq_iff {op : BitVec 6} {rs rt rd sa : BitVec 5} {f : BitVec 6} {w : Word} :
    wordR op rs rt rd sa f = w
      ↔ opOf w = op ∧ rsOf w = rs ∧ rtOf w = rt ∧ rdOf w = rd ∧ saOf w = sa ∧ functOf w = f := by
  constructor
  · rintro rfl; simp
  · rintro ⟨rfl, rfl, rfl, rfl, rfl, rfl⟩
    unfold wordR opOf rsOf rtOf rdOf saOf functOf
    simp only [BitVec.extractLsb'_append_extractLsb'_eq_extractLsb', extract_whole]

theorem wordI_eq_iff {op : BitVec 6} {rs rt : BitVec 5} {imm : Half} {w : Word} :
    wordI op rs rt imm = w ↔ opOf w = op ∧ rsOf w = rs ∧ rtOf w = rt ∧ immOf w = imm := by
  constructor
  · rintro rfl; simp
  · rintro ⟨rfl, rfl, rfl, rfl⟩
    unfold wordI opOf rsOf rtOf immOf
    simp only [BitVec.extractLsb'_append_extractLsb'_eq_extractLsb', extract_whole]

theorem wordJ_eq_iff {op : BitVec 6} {idx : BitVec 26} {w : Word} :
    wordJ op idx = w ↔ opOf w = op ∧ idxOf w = idx := by
  constructor
  · rintro rfl; simp
  · rintro ⟨rfl, rfl⟩
    unfold wordJ opOf idxOf
    simp only [BitVec.extractLsb'_append_extractLsb'_eq_extractLsb', extract_whole]

theorem wordCode20_eq_iff {code : BitVec 20} {f : BitVec 6} {w : Word} :
    wordCode20 code f = w ↔ opOf w = 0 ∧ code20Of w = code ∧ functOf w = f := by
  constructor
  · rintro rfl; simp
  · rintro ⟨hop, rfl, rfl⟩
    unfold wordCode20 code20Of functOf
    rw [← show w.extractLsb' 26 6 = 0#6 from hop]
    simp only [BitVec.extractLsb'_append_extractLsb'_eq_extractLsb', extract_whole]

theorem wordCode10_eq_iff {rs rt : BitVec 5} {code : BitVec 10} {f : BitVec 6} {w : Word} :
    wordCode10 rs rt code f = w
      ↔ opOf w = 0 ∧ rsOf w = rs ∧ rtOf w = rt ∧ code10Of w = code ∧ functOf w = f := by
  constructor
  · rintro rfl; simp
  · rintro ⟨hop, rfl, rfl, rfl, rfl⟩
    unfold wordCode10 rsOf rtOf code10Of functOf
    rw [← show w.extractLsb' 26 6 = 0#6 from hop]
    simp only [BitVec.extractLsb'_append_extractLsb'_eq_extractLsb', extract_whole]

theorem wordCo_eq_iff {code : BitVec 19} {f : BitVec 6} {w : Word} :
    wordCo code f = w ↔ opOf w = 16 ∧ w.getLsbD 25 = true ∧ code19Of w = code ∧ functOf w = f := by
  constructor
  · rintro rfl; simp [wordCo_co]
  · rintro ⟨hop, hco, rfl, rfl⟩
    have co : w.extractLsb' 25 1 = 1#1 := by
      ext k hk
      obtain rfl : k = 0 := by omega
      simpa using hco
    unfold wordCo code19Of functOf
    rw [← show w.extractLsb' 26 6 = 16#6 from hop, ← co]
    simp only [BitVec.extractLsb'_append_extractLsb'_eq_extractLsb', extract_whole]

/-- Bits 10..0 are sa and funct. -/
theorem low_eq_zero {w : Word} (h : w.extractLsb' 0 11 = 0) : saOf w = 0 ∧ functOf w = 0 := by
  have parts : saOf w ++ functOf w = 0#11 :=
    (BitVec.extractLsb'_append_extractLsb'_eq_extractLsb' (by rfl)).trans h
  constructor
  · have := extract_append_high (saOf w) (functOf w) 6 5 (by omega)
    rw [parts, Nat.sub_self, extract_whole] at this
    exact this.symm
  · have := extract_append_low (saOf w) (functOf w) 0 6 (by omega)
    rw [parts, extract_whole] at this
    exact this.symm

/-- cc with the two bits below it. -/
theorem ccField_ccOf (f : Reg) : ccField (ccOf f) (selOf f) = f := by
  unfold ccField ccOf selOf
  simp only [BitVec.extractLsb'_append_extractLsb'_eq_extractLsb', extract_whole]

theorem ccCmpField_ccCmpOf {f : BitVec 5} (h : selOf f = 0) : ccCmpField (ccCmpOf f) = f := by
  have := ccField_ccOf f
  rwa [h] at this

/-- A field read as this number. -/
theorem field_eq {n k : Nat} {f : BitVec n} (h : f.toNat = k) : f = BitVec.ofNat n k := by
  rw [← h, BitVec.ofNat_toNat, BitVec.setWidth_eq]

end Sys2Proof
end

section
/-! What the decoder answers, table by table: wherever it answers an instruction, the word is that instruction's. -/
namespace Sys2Proof

/-- Every instruction that the decoder answers is well-formed and has the word w. -/
def Yields (w : Word) (d : Except DecodeError Instr) : Prop :=
  ∀ i, d = .ok i → encode i = w ∧ i.WellFormed = true

theorem yields_error (w : Word) (e : DecodeError) : Yields w (.error e) := by intro i h; cases h

theorem yields_ok (w : Word) (i : Instr) : Yields w (.ok i) ↔ encode i = w ∧ i.WellFormed = true :=
  ⟨fun h => h i rfl, fun h j e => by cases e; exact h⟩

/-- Only where the must-be-zero fields are zero (spec/30_encoding.md R121). -/
theorem yields_whenZero (w : Word) (z : Bool) (i : Instr) :
    Yields w (whenZero z i) ↔ (z = true → Yields w (.ok i)) := by
  cases z
  · exact ⟨fun _ h => (nomatch h), fun _ => yields_error w _⟩
  · exact ⟨fun h _ => h, fun h => h rfl⟩

section
variable {w : Word} {i : Instr} {op f : BitVec 6} {rs rt rd sa : BitVec 5} {imm : Half} {z : Bool}

theorem yields_wordR (he : encode i = wordR op rs rt rd sa f) (hw : i.WellFormed = true) (hop : opOf w = op)
    (hf : functOf w = f) (h : rsOf w = rs ∧ rtOf w = rt ∧ rdOf w = rd ∧ saOf w = sa) : Yields w (.ok i) := by
  obtain ⟨hrs, hrt, hrd, hsa⟩ := h
  exact (yields_ok w i).2 ⟨he.trans (wordR_eq_iff.2 ⟨hop, hrs, hrt, hrd, hsa, hf⟩), hw⟩

theorem yields_wordR_whenZero (he : encode i = wordR op rs rt rd sa f) (hw : i.WellFormed = true) (hop : opOf w = op)
    (hf : functOf w = f) (h : z = true → rsOf w = rs ∧ rtOf w = rt ∧ rdOf w = rd ∧ saOf w = sa) :
    Yields w (whenZero z i) :=
  (yields_whenZero w z i).2 fun hz => yields_wordR he hw hop hf (h hz)

theorem yields_wordI (he : encode i = wordI op rs rt imm) (hw : i.WellFormed = true) (hop : opOf w = op)
    (h : rsOf w = rs ∧ rtOf w = rt ∧ immOf w = imm) : Yields w (.ok i) :=
  (yields_ok w i).2 ⟨he.trans (wordI_eq_iff.2 ⟨hop, h⟩), hw⟩

theorem yields_wordI_whenZero (he : encode i = wordI op rs rt imm) (hw : i.WellFormed = true) (hop : opOf w = op)
    (h : z = true → rsOf w = rs ∧ rtOf w = rt ∧ immOf w = imm) : Yields w (whenZero z i) :=
  (yields_whenZero w z i).2 fun hz => yields_wordI he hw hop (h hz)

end

/-! ## The tables (spec/30_encoding.md R110 to R112) -/

theorem yields_decodeSpecial {w : Word} (hop : opOf w = 0) : Yields w (decodeSpecial w) := by
  unfold decodeSpecial
  split
  case h_38 => exact yields_error w _
  case h_11 h | h_12 h =>
    exact (yields_ok w _).2 ⟨wordCode20_eq_iff.2 ⟨hop, rfl, field_eq h⟩, rfl⟩
  case h_32 h | h_33 h | h_34 h | h_35 h | h_36 h | h_37 h =>
    exact (yields_ok w _).2 ⟨wordCode10_eq_iff.2 ⟨hop, rfl, rfl, rfl, field_eq h⟩, rfl⟩
  all_goals
    next h => exact yields_wordR_whenZero rfl rfl hop (field_eq h) (by simp +contextual)

theorem yields_decodeSpecial2 {w : Word} (hop : opOf w = 28) : Yields w (decodeSpecial2 w) := by
  unfold decodeSpecial2
  split
  case h_8 => exact yields_error w _
  all_goals
    next h => exact yields_wordR_whenZero rfl rfl hop (field_eq h) (by simp +contextual)

theorem yields_decodeRegimm {w : Word} (hop : opOf w = 1) : Yields w (decodeRegimm w) := by
  unfold decodeRegimm
  split
  case h_15 => exact yields_error w _
  all_goals
    next h => exact yields_wordI rfl rfl hop ⟨rfl, field_eq h, rfl⟩

/-! ## Coprocessor 0 (spec/30_encoding.md R113) -/

theorem yields_decodeCo {w : Word} (hop : opOf w = 16) (hco : w.getLsbD 25 = true) : Yields w (decodeCo w) := by
  unfold decodeCo
  split
  case h_6 h => exact (yields_ok w _).2 ⟨wordCo_eq_iff.2 ⟨hop, hco, rfl, field_eq h⟩, rfl⟩
  case h_7 => exact yields_error w _
  all_goals
    next h =>
      exact (yields_whenZero w _ _).2 fun z => (yields_ok w _).2
        ⟨wordCo_eq_iff.2 ⟨hop, hco, of_decide_eq_true z, field_eq h⟩, rfl⟩

/-- The moves between a register and a coprocessor's: sub-code, rt, rd and eleven zeros. -/
theorem yields_move {w : Word} {i : Instr} {op : BitVec 6} {sub : BitVec 5}
    (he : encode i = wordR op sub (rtOf w) (rdOf w) 0 0) (hw : i.WellFormed = true) (hop : opOf w = op)
    (hsub : rsOf w = sub) : Yields w (whenZero (w.extractLsb' 0 11 = 0) i) := by
  refine (yields_whenZero w _ i).2 fun z => ?_
  obtain ⟨hsa, hf⟩ := low_eq_zero (of_decide_eq_true z)
  exact yields_wordR he hw hop hf ⟨hsub, rfl, rfl, hsa⟩

theorem yields_decodeCop0 {w : Word} (hop : opOf w = 16) : Yields w (decodeCop0 w) := by
  unfold decodeCop0
  split
  next hco => exact yields_decodeCo hop hco
  next =>
    split
    next h => exact yields_move rfl rfl hop (field_eq h)
    next h => exact yields_move rfl rfl hop (field_eq h)
    next => exact yields_error w _

/-! ## Coprocessor 1 (spec/30_encoding.md R114 to R118) -/

/-- A field with cc, and the number of the two bits below it. -/
theorem eq_ccField {f : Reg} {k : Nat} (h : (selOf f).toNat = k) : f = ccField (ccOf f) (BitVec.ofNat 2 k) := by
  rw [← field_eq h, ccField_ccOf]

theorem yields_decodeBc1 {w : Word} (hop : opOf w = 17) (hsub : rsOf w = 8) : Yields w (decodeBc1 w) := by
  have branch {i : Instr} {k : Nat} (h : (selOf (rtOf w)).toNat = k)
      (he : encode i = wordI 17 8 (ccField (ccOf (rtOf w)) (BitVec.ofNat 2 k)) (immOf w)) (hw : i.WellFormed = true) :
      Yields w (.ok i) := yields_wordI he hw hop ⟨hsub, eq_ccField h, rfl⟩
  unfold decodeBc1
  split
  next h => exact branch h rfl rfl
  next h => exact branch h rfl rfl
  next h => exact branch h rfl rfl
  next h0 h1 h2 =>
    have h : (selOf (rtOf w)).toNat = 3 := by have := (selOf (rtOf w)).isLt; change _ ≠ _ at h0 h1 h2; omega
    exact branch h rfl rfl

section
variable {w : Word} {i : Instr} {fmt : BitVec 5} {f : BitVec 6} (hop : opOf w = 17) (hfmt : rsOf w = fmt)
  (hf : functOf w = f) (hw : i.WellFormed = true)
include hop hfmt hf hw

/-- ft, fs and fd. -/
theorem yields_binary (he : encode i = wordR 17 fmt (rtOf w) (rdOf w) (saOf w) f) : Yields w (.ok i) :=
  yields_wordR he hw hop hf ⟨hfmt, rfl, rfl, rfl⟩

/-- fs and fd. -/
theorem yields_unary (he : encode i = wordR 17 fmt 0 (rdOf w) (saOf w) f) : Yields w (whenZero (rtOf w = 0) i) :=
  yields_wordR_whenZero he hw hop hf fun z => ⟨hfmt, of_decide_eq_true z, rfl, rfl⟩

/-- ft, fs and the condition code of a compare. -/
theorem yields_compare (he : encode i = wordR 17 fmt (rtOf w) (rdOf w) (ccCmpField (ccCmpOf (saOf w))) f) :
    Yields w (whenZero (selOf (saOf w) = 0) i) :=
  yields_wordR_whenZero he hw hop hf fun z => ⟨hfmt, rfl, rfl, (ccCmpField_ccCmpOf (of_decide_eq_true z)).symm⟩

/-- The condition code, whether it must be set, fs and fd. -/
theorem yields_moveOnCc {k : Nat} (h : (selOf (rtOf w)).toNat = k)
    (he : encode i = wordR 17 fmt (ccField (ccOf (rtOf w)) (BitVec.ofNat 2 k)) (rdOf w) (saOf w) f) :
    Yields w (.ok i) :=
  yields_wordR he hw hop hf ⟨hfmt, eq_ccField h, rfl, rfl⟩

end

/-- The tables of S and D have the same rows at the same places, but for the one conversion between them. -/
theorem yields_decodeFmt {w : Word} (hop : opOf w = 17) :
    (rsOf w = 16 → Yields w (decodeFmtS w)) ∧ (rsOf w = 17 → Yields w (decodeFmtD w)) := by
  unfold decodeFmtS decodeFmtD
  constructor
  all_goals
    intro hfmt
    split
    case h_1 h | h_2 h | h_3 h | h_4 h | h_14 h | h_15 h => exact yields_binary hop hfmt (field_eq h) rfl rfl
    case h_5 h | h_6 h | h_7 h | h_8 h | h_9 h | h_10 h | h_11 h | h_12 h | h_16 h | h_17 h =>
      exact yields_unary hop hfmt (field_eq h) rfl rfl
    case h_13 hf =>
      split
      next h => exact yields_moveOnCc hop hfmt (field_eq hf) rfl h rfl
      next h => exact yields_moveOnCc hop hfmt (field_eq hf) rfl h rfl
      next => exact yields_error w _
    case h_34 => exact yields_error w _
    all_goals
      next h => exact yields_compare hop hfmt (field_eq h) rfl rfl

theorem yields_decodeFmtW {w : Word} (hop : opOf w = 17) (hfmt : rsOf w = 20) : Yields w (decodeFmtW w) := by
  unfold decodeFmtW
  split
  next h => exact yields_unary hop hfmt (field_eq h) rfl rfl
  next h => exact yields_unary hop hfmt (field_eq h) rfl rfl
  next => exact yields_error w _

theorem yields_decodeCop1 {w : Word} (hop : opOf w = 17) : Yields w (decodeCop1 w) := by
  unfold decodeCop1
  split
  case h_5 h => exact yields_decodeBc1 hop (field_eq h)
  case h_6 h => exact (yields_decodeFmt hop).1 (field_eq h)
  case h_7 h => exact (yields_decodeFmt hop).2 (field_eq h)
  case h_8 h => exact yields_decodeFmtW hop (field_eq h)
  case h_9 => exact yields_error w _
  all_goals
    next h => exact yields_move rfl rfl hop (field_eq h)

/-! ## Every word (spec/30_encoding.md R108, R109) -/

theorem yields_decode (w : Word) : Yields w (decode w) := by
  unfold decode
  split
  case h_1 h => exact yields_decodeSpecial (field_eq h)
  case h_2 h => exact yields_decodeRegimm (field_eq h)
  case h_3 h | h_4 h => exact (yields_ok w _).2 ⟨wordJ_eq_iff.2 ⟨field_eq h, rfl⟩, rfl⟩
  case h_7 h | h_8 h | h_16 h | h_23 h | h_24 h =>
    exact yields_wordI_whenZero rfl rfl (field_eq h) fun z => by simpa using z
  case h_17 h => exact yields_decodeCop0 (field_eq h)
  case h_18 h => exact yields_decodeCop1 (field_eq h)
  case h_19 | h_20 => exact yields_error w _
  case h_25 h => exact yields_decodeSpecial2 (field_eq h)
  case h_44 => exact yields_error w _
  all_goals
    next h => exact yields_wordI rfl rfl (field_eq h) ⟨rfl, rfl, rfl⟩

/-- Settles O54: the tables one by one. -/
theorem encodeOfDecode : Obligations.EncodeOfDecode := yields_decode

end Sys2Proof
end

section
/-! The encoding as a whole: decode after encode, the words that encode nothing, and what the machine does at them. -/
namespace Sys2Proof.Laws.Codec

/-- Decoding takes every instruction's word back, an idiom's to the core instruction it stands for
(spec/30_encoding.md R125). -/
theorem decode_encode (i : Instr) : decode (encode i) = .ok i.canonical := by
  show Statement i
  cases i <;>
    simp only [
      -- SPECIAL, SPECIAL2
      add, addu, sub, subu, and, or, xor, nor, slt, sltu, movn, movz, sllv, srlv, srav, sll, srl, sra, mult, multu,
      div, divu, mfhi, mflo, mthi, mtlo, jr, jalr, syscall, brk, sync, tge, tgeu, tlt, tltu, teq, tne, madd, maddu,
      msub, msubu, mul, clz, clo,
      -- immediate operand, loads and stores
      addi, addiu, slti, sltiu, andi, ori, xori, lui, lb, lh, lwl, lw, lbu, lhu, lwr, sb, sh, swl, sw, swr, ll, sc,
      -- branches, jumps, REGIMM
      beq, bne, beql, bnel, blez, bgtz, blezl, bgtzl, bltz, bgez, bltzl, bgezl, bltzal, bgezal, bltzall, bgezall,
      tgei, tgeiu, tlti, tltiu, teqi, tnei, j, jal,
      -- COP0
      mfc0, mtc0, tlbr, tlbwi, tlbwr, tlbp, eret, wait,
      -- COP1 but its formats
      lwc1, ldc1, swc1, sdc1, mfc1, cfc1, mtc1, ctc1, bc1f, bc1fl, bc1t, bc1tl,
      -- COP1 by format
      addS, addD, subS, subD, mulS, mulD, divS, divD, sqrtS, sqrtD, absS, absD, movS, movD, negS, negD, roundWS,
      roundWD, truncWS, truncWD, ceilWS, ceilWD, floorWS, floorWD, cvtWS, cvtWD, cvtSD, cvtSW, cvtDS, cvtDW, movfS,
      movfD, movtS, movtD, movzS, movzD, movnS, movnD,
      -- compares
      cFS, cFD, cUnS, cUnD, cEqS, cEqD, cUeqS, cUeqD, cOltS, cOltD, cUltS, cUltD, cOleS, cOleD, cUleS, cUleD, cSfS,
      cSfD, cNgleS, cNgleD, cSeqS, cSeqD, cNglS, cNglD, cLtS, cLtD, cNgeS, cNgeD, cLeS, cLeD, cNgtS, cNgtD,
      -- idioms
      b, bal, nop, ssnop]

end Sys2Proof.Laws.Codec

namespace Sys2Proof
open Laws.Codec (decode_encode)

/-! ## Decode after encode -/

theorem Instr.canonical_of_wellFormed {i : Instr} (h : i.WellFormed = true) : i.canonical = i := by
  cases i with
  | b | bal | nop | ssnop => cases h
  | _ => rfl

/-- Every word of the encoder is an instruction's that decoding yields (spec/30_encoding.md R125). -/
theorem Instr.canonical_wellFormed (i : Instr) : i.canonical.WellFormed = true :=
  (yields_decode _ _ (decode_encode i)).2

theorem decode_of_encode {i : Instr} {w : Word} (he : encode i = w) (hw : i.WellFormed = true) : decode w = .ok i := by
  rw [← he, decode_encode, Instr.canonical_of_wellFormed hw]

/-- Settles O53. -/
theorem decodeOfEncode : Obligations.DecodeOfEncode := by
  intro big i rest
  refine ⟨fun hw => ?_, decode_encode i, i.canonical_wellFormed⟩
  rw [encodeBytes, decodeBytes_bytesOfWord, decode_of_encode rfl hw]
  rfl

/-- Settles O52: each instruction's word is the one written out. -/
theorem decodedWords : Obligations.DecodedWords := by
  intro p hp
  obtain ⟨encoded, wellFormed⟩ : encode p.2 = p.1 ∧ p.2.WellFormed = true := by
    revert p; decide
  exact decode_of_encode encoded wellFormed

/-! ## Words that encode nothing (spec/30_encoding.md R127) -/

/-- The words the decoder refuses are those outside the encoder's image. -/
theorem decode_error_iff (w : Word) : (∃ e, decode w = .error e) ↔ ∀ i, encode i ≠ w := by
  constructor
  · rintro ⟨e, he⟩ i rfl
    rw [decode_encode] at he
    cases he
  · intro unencoded
    cases hd : decode w with
    | error e => exact ⟨e, rfl⟩
    | ok i => exact absurd (yields_decode w i hd).1 (unencoded i)

/-- The primary opcodes without a row in the table, COP2 and COP3 (18, 19) among them (spec/30_encoding.md R109). -/
def reservedOps : List (BitVec 6) :=
  [18, 19, 24, 25, 26, 27, 29, 30, 31, 39, 44, 45, 47, 50, 51, 52, 54, 55, 58, 59, 60, 62, 63]

theorem opOf_of_decode {w : Word} {i : Instr} (hd : decode w = .ok i) : opOf w ∉ reservedOps := by
  unfold decode at hd
  split at hd
  case h_19 | h_20 | h_44 => cases hd
  all_goals
    next h => rw [field_eq h]; decide

end Sys2Proof

namespace Sys2Proof.Machine
open Laws.Codec (decode_encode)

/-! ## What a word that encodes nothing raises (spec/60_exceptions.md R347, R348) -/

section
variable {s : State} {w : Word}

theorem State.reservedWord_cop0 (hop : opOf w = 16) (h : s.cp0Usable = false) :
    s.reservedWord w = .coprocessorUnusable 0 := by
  simp [State.reservedWord, hop, h]

theorem State.reservedWord_cop1 (hop : opOf w = 17) (h : s.cp1Usable = false) :
    s.reservedWord w = .coprocessorUnusable 1 := by
  simp [State.reservedWord, hop, h]

theorem State.reservedWord_usable (h0 : opOf w = 16 → s.cp0Usable = true) (h1 : opOf w = 17 → s.cp1Usable = true) :
    s.reservedWord w = .reservedInstruction := by
  unfold State.reservedWord
  split
  next h => rw [h0 (field_eq h)]; rfl
  next h => rw [h1 (field_eq h)]; rfl
  next => rfl

end

/-- A word the decoder refuses, where a fetch reads it (spec/20_memory.md R75). -/
theorem State.nextInstr_of_refused {u : State} {pa : PAddr} {e : DecodeError}
    (hl : u.locate u.pc 4 .fetch = .ok pa) (ha : u.admits pa.toNat 4 .fetch = true)
    (hd : decode (u.wordAt pa.toNat) = .error e) : u.nextInstr = .exc (u.reservedWord (u.wordAt pa.toNat)) := by
  have accepted : u.accept pa 4 .fetch = .ok pa := by rw [u.accept_eq, if_pos ha]
  simp only [State.nextInstr, State.fetch, hl, Acc.bind, accepted, hd]

/-- Settles O51. -/
theorem reservedWords : Obligations.ReservedWords := by
  refine ⟨?steps, fun i w hop he => ?opcodes⟩
  case steps =>
    intro s u pa hb hl ha unencoded op enters
    obtain ⟨e, hd⟩ := (decode_error_iff _).2 unencoded
    have run : step s = .next (u.raise (u.reservedWord (u.wordAt pa.toNat))) := by
      rw [step_of_run hb, runInstr, State.nextInstr_of_refused hl ha hd]
    refine ⟨fun hop hu => ⟨_, run, ?_⟩, fun hop hu => ⟨_, run, ?_⟩, fun h0 h1 => ⟨_, run, ?_⟩⟩
    · rw [State.reservedWord_cop0 hop hu]; exact u.raise_unusable 0
    · rw [State.reservedWord_cop1 hop hu]; exact u.raise_unusable 1
    · rw [State.reservedWord_usable h0 h1]
      exact u.raise_plain .reservedInstruction rfl rfl rfl (by intro e v; cases e <;> rfl)
  case opcodes =>
    have hd := decode_encode i
    rw [he] at hd
    exact opOf_of_decode hd hop

end Sys2Proof.Machine
end

section
/-! The CPU loads and stores where the access is located and accepted (spec/40_load_store.md): the values loaded, the
bytes stored, the merges of the unaligned forms, and the link. -/
namespace Sys2Proof.Machine

/-! ## The bytes of a word (spec/20_memory.md R62, R63) -/

/-- The number of the byte at offset o of a word, or the offset of the byte with that number: o itself, or counted from
the other end when byte order is reversed. -/
def State.byteNumber (s : State) (o : Nat) : Nat := if s.reverseEndian then 3 - o else o

theorem State.byteNumber_lt (s : State) {o : Nat} (h : o < 4) : s.byteNumber o < 4 := by
  unfold State.byteNumber; split <;> omega

theorem State.byteNumber_byteNumber (s : State) {o : Nat} (h : o < 4) : s.byteNumber (s.byteNumber o) = o := by
  unfold State.byteNumber; split <;> omega

/-- The lane of the byte at an offset, by its number in the view the program has. -/
theorem State.lane_eq_byteNumber (s : State) {o : Nat} (h : o < 4) :
    s.lane o = if s.bigEndianCore then 3 - s.byteNumber o else s.byteNumber o := by
  unfold State.lane State.bigEndianCore State.byteNumber
  cases s.cfg.bigEndianMem <;> cases s.reverseEndian <;> simp
  omega

/-- The lane an unaligned access begins in (spec/20_memory.md R63). -/
theorem State.byteLane_eq (s : State) (va : Word) :
    s.byteLane va = if s.bigEndianCore then 3 - va.toNat % 4 else va.toNat % 4 := by
  have flip : ∀ x : BitVec 2, (x ^^^ 3#2).toNat = 3 - x.toNat := by decide
  have low : (va.extractLsb' 0 2).toNat = va.toNat % 4 := by simp
  unfold State.byteLane
  split
  · rw [flip, low]
  · rw [BitVec.xor_zero, low]

/-- The byte at offset o of the word at a stands in its lane. -/
theorem State.extract_wordAt (s : State) (a : Nat) {o : Nat} (h : o < 4) :
    (s.wordAt a).extractLsb' (8 * s.lane o) 8 = s.byteAt (a + o) := by
  unfold State.wordAt State.halfAt State.lane
  obtain rfl | rfl | rfl | rfl : o = 0 ∨ o = 1 ∨ o = 2 ∨ o = 3 := by omega
  all_goals cases s.cfg.bigEndianMem
  all_goals simp (disch := omega) [extract_append_high (n := 16) (m := 16), extract_append_low (n := 16) (m := 16),
    extract_append_high (n := 8) (m := 8), extract_append_low (n := 8) (m := 8), Nat.add_assoc]

/-- Byte number k of the word at a, in the program's view. -/
theorem State.extract_wordAt_view (s : State) (a : Nat) {k : Nat} (h : k < 4) :
    (s.wordAt a).extractLsb' (8 * (if s.bigEndianCore then 3 - k else k)) 8 = s.byteAt (a + s.byteNumber k) := by
  have lane := s.lane_eq_byteNumber (s.byteNumber_lt h)
  rw [s.byteNumber_byteNumber h] at lane
  rw [← lane, s.extract_wordAt a (s.byteNumber_lt h)]

/-- A byte of two pieces of words put together lies in one of them. -/
theorem extract_pieces {n m : Nat} (x y : Word) (i k p : Nat) (h : (m ≤ p ∧ p + 8 ≤ m + n) ∨ p + 8 ≤ m) :
    (x.extractLsb' i n ++ y.extractLsb' k m).extractLsb' p 8
      = if m ≤ p then x.extractLsb' (i + (p - m)) 8 else y.extractLsb' (k + p) 8 := by
  split
  · rw [extract_append_high _ _ _ _ (by omega), extract_extract _ _ _ _ _ (by omega)]
  · rw [extract_append_low _ _ _ _ (by omega), extract_extract _ _ _ _ _ (by omega)]

/-- LWL's merge, from the top byte down (spec/40_load_store.md R146). -/
theorem extract_lwlMerge (mem old : Word) {b j : Nat} (hb : b < 4) (hj : j < 4) :
    (lwlMerge b mem old).extractLsb' (24 - 8 * j) 8
      = if j ≤ b then mem.extractLsb' (8 * (b - j)) 8 else old.extractLsb' (24 - 8 * j) 8 := by
  obtain rfl | rfl | rfl | rfl : b = 0 ∨ b = 1 ∨ b = 2 ∨ b = 3 := by omega
  case inr.inr.inr => rw [if_pos (by omega), show 24 - 8 * j = 8 * (3 - j) by omega]; rfl
  all_goals
    simp only [lwlMerge]
    rw [extract_pieces _ _ _ _ _ (by omega)]
    split
    · rw [if_pos (by omega)]; congr 1; omega
    · rw [if_neg (by omega)]; congr 1; omega

/-- LWR's merge, from the bottom byte up (spec/40_load_store.md R147). -/
theorem extract_lwrMerge (mem old : Word) {b j : Nat} (hb : b < 4) (hj : j < 4) :
    (lwrMerge b mem old).extractLsb' (8 * j) 8
      = if b + j < 4 then mem.extractLsb' (8 * (b + j)) 8 else old.extractLsb' (8 * j) 8 := by
  obtain rfl | rfl | rfl | rfl : b = 0 ∨ b = 1 ∨ b = 2 ∨ b = 3 := by omega
  case inl => rw [if_pos (by omega), lwrMerge, Nat.zero_add]
  all_goals
    simp only [lwrMerge]
    rw [extract_pieces _ _ _ _ _ (by omega)]
    split
    · rw [if_neg (by omega)]; congr 1; omega
    · rw [if_pos (by omega)]; congr 1; omega

theorem extract_ushiftRight (v : Word) (n i m : Nat) : (v >>> n).extractLsb' i m = v.extractLsb' (n + i) m := by
  ext k hk
  simp [BitVec.getLsbD_ushiftRight, Nat.add_assoc]

theorem extract_shiftLeft (v : Word) {n i m : Nat} (h : n ≤ i) (hi : i + m ≤ 32) :
    (v <<< n).extractLsb' i m = v.extractLsb' (i - n) m := by
  ext k hk
  rw [BitVec.getElem_extractLsb', BitVec.getElem_extractLsb', BitVec.getLsbD_shiftLeft,
    decide_eq_true (by omega : i + k < 32), decide_eq_false (by omega : ¬ i + k < n), Nat.sub_add_comm h]
  rfl

/-! ## Accesses the platform accepts (spec/20_memory.md R66, R67, R80) -/

section
variable {s : State} {pa : PAddr}

/-- What the platform accepts is a matter of the parameters. -/
theorem State.admits_congr {s u : State} (h : u.cfg = s.cfg) (a n : Nat) (k : AccessKind) :
    u.admits a n k = s.admits a n k := by
  unfold State.admits; rw [h]

theorem State.accept_ok {n : Nat} {k : AccessKind} (h : s.admits pa.toNat n k = true) : s.accept pa n k = .ok pa :=
  if_pos h

theorem memByte_ok (h : s.admits (s.bytePlace pa).toNat 1 .load = true) :
    s.memByte pa = .ok (s.byteAt (s.bytePlace pa).toNat) := by
  rw [State.memByte, State.accept_ok h]; rfl

theorem memHalf_ok (h : s.admits (s.halfPlace pa).toNat 2 .load = true) :
    s.memHalf pa = .ok (s.halfAt (s.halfPlace pa).toNat) := by
  rw [State.memHalf, State.accept_ok h]; rfl

theorem memWord_ok (h : s.admits pa.toNat 4 .load = true) : s.memWord pa = .ok (s.wordAt pa.toNat) := by
  rw [State.memWord, State.accept_ok h]; rfl

variable {u : State}

/-- A state with the same parameters and CP0 registers accepts the same stores, at the same places. -/
theorem putByte_ok (hcfg : u.cfg = s.cfg) (hcp0 : u.cp0 = s.cp0)
    (h : s.admits (s.bytePlace pa).toNat 1 .store = true) (v : Byte) :
    u.putByte pa v = .ok (u.setByte (s.bytePlace pa).toNat v) := by
  rw [← State.admits_congr hcfg] at h
  rw [State.bytePlace, ← reverseEndian_congr hcp0] at h ⊢
  exact congrArg (Acc.bind · _) (State.accept_ok h)

theorem putHalf_ok (hcfg : u.cfg = s.cfg) (hcp0 : u.cp0 = s.cp0)
    (h : s.admits (s.halfPlace pa).toNat 2 .store = true) (v : Half) :
    u.putHalf pa v = .ok (u.setHalf (s.halfPlace pa).toNat v) := by
  rw [← State.admits_congr hcfg] at h
  rw [State.halfPlace, ← reverseEndian_congr hcp0] at h ⊢
  exact congrArg (Acc.bind · _) (State.accept_ok h)

theorem putWord_ok (hcfg : u.cfg = s.cfg) (h : s.admits pa.toNat 4 .store = true) (v : Word) :
    u.putWord pa v = .ok (u.setWord pa.toNat v) := by
  rw [← State.admits_congr hcfg] at h
  exact congrArg (Acc.bind · _) (State.accept_ok h)

theorem putLanes_ok (hcfg : u.cfg = s.cfg) (h : s.admits (wordPlace pa).toNat 4 .store = true)
    (chosen : Nat → Bool) (w : Word) :
    u.putLanes pa chosen w = .ok (u.setLanes (wordPlace pa).toNat chosen w) := by
  rw [← State.admits_congr hcfg] at h
  exact congrArg (Acc.bind · _) (State.accept_ok h)

end

/-- An instruction whose checks pass. -/
theorem exec_of_located {i : Instr} {s t : State} {va : Word} {n : Nat} {k : AccessKind} {f : PAddr → Acc State}
    {pa : PAddr} (he : exec i s = ((s.locate va n k).bind f).outcome s) (hl : s.locate va n k = .ok pa)
    (hf : f pa = .ok t) : exec i s = .next t := by
  rw [he, hl, Acc.bind, hf]
  rfl

/-! ## Loads -/

/-- A load whose read answers a value. -/
theorem loads_of_read {i : Instr} {s : State} {base rt : Reg} {off : Half} {n : Nat} {read : PAddr → Acc Word}
    {pa : PAddr} {v : Word} (he : exec i s = s.loadGpr base rt off n read)
    (hl : s.locate (s.effAddr base off) n .load = .ok pa) (hr : read pa = .ok v) : Loads i s rt v := by
  rw [State.loadGpr, Acc.bind_assoc] at he
  exact ⟨_, exec_of_located he hl (congrArg (Acc.bind · _) hr), s.finishLoad_spec rt v⟩

/-- Settles O15. -/
theorem loadResults : Obligations.LoadResults := by
  intro s base rt off pa
  refine ⟨decode_of_encode rfl rfl, decode_of_encode rfl rfl, decode_of_encode rfl rfl, decode_of_encode rfl rfl,
    decode_of_encode rfl rfl, decode_of_encode rfl rfl, fun hl ha => ?byte, fun hl ha => ?half, fun hl ha => ?word⟩
  case byte =>
    have read (f : Byte → Acc Word) := congrArg (Acc.bind · f) (memByte_ok ha)
    exact ⟨loads_of_read rfl hl (read _), loads_of_read rfl hl (read _)⟩
  case half =>
    have read (f : Half → Acc Word) := congrArg (Acc.bind · f) (memHalf_ok ha)
    exact ⟨loads_of_read rfl hl (read _), loads_of_read rfl hl (read _)⟩
  case word =>
    refine ⟨loads_of_read rfl hl (memWord_ok ha), ?_⟩
    have run := exec_of_located (i := .ll base rt off) rfl hl (congrArg (Acc.bind · _) (memWord_ok ha))
    obtain ⟨takes, advances, -⟩ := s.finishLoad_spec rt (s.wordAt pa.toNat)
    refine ⟨_, run, takes, advances, ?_, rfl, rfl, rfl, rfl⟩
    apply keepsAllBut_of_fields <;> simp

/-- Settles O16: each byte of a merge is one of rt's or one of a lane of the word, which is a byte of memory. -/
theorem unalignedLoads : Obligations.UnalignedLoads := by
  intro s base rt off pa va a m old
  refine ⟨decode_of_encode rfl rfl, decode_of_encode rfl rfl, fun hl ha => ?_⟩
  have ha4 : a < 4 := Nat.mod_lt _ (by omega)
  have lane : s.byteLane va = if s.bigEndianCore then 3 - a else a := s.byteLane_eq va
  have lane4 : s.byteLane va < 4 := by rw [lane]; split <;> omega
  have read (f : Word → Acc Word) := congrArg (Acc.bind · f) (memWord_ok ha)
  have byte (k : Nat) (hk : k < 4) := s.extract_wordAt_view (wordPlace pa).toNat hk
  refine ⟨⟨_, loads_of_read rfl hl (read _), fun j hj => ?lwl⟩, _, loads_of_read rfl hl (read _), fun j hj => ?lwr⟩
  case lwl =>
    refine (extract_lwlMerge _ _ lane4 hj).trans ?_
    rw [lane]
    cases hc : s.bigEndianCore <;> simp only [hc, if_true, if_false, Bool.false_eq_true] at byte ⊢
    · split
      · exact byte (a - j) (by omega)
      · rfl
    · by_cases h : a + j < 4
      · rw [if_pos (by omega), if_pos h, Nat.sub_sub]; exact byte (a + j) h
      · rw [if_neg (by omega), if_neg h]
  case lwr =>
    refine (extract_lwrMerge _ _ lane4 hj).trans ?_
    rw [lane]
    cases hc : s.bigEndianCore <;> simp only [hc, if_true, if_false, Bool.false_eq_true] at byte ⊢
    · split
      · exact byte (a + j) (by omega)
      · rfl
    · by_cases h : j ≤ a
      · rw [if_pos (by omega), if_pos h, show 3 - a + j = 3 - (a - j) by omega]; exact byte (a - j) (by omega)
      · rw [if_neg (by omega), if_neg h]

/-! ## Stores -/

/-- t is u but, possibly, for memory. -/
def OnlyMemory (u t : State) : Prop := ∃ m, t = { u with mem := m }

theorem OnlyMemory.trans {s u t : State} (h : OnlyMemory s u) (g : OnlyMemory u t) : OnlyMemory s t := by
  obtain ⟨m, rfl⟩ := h
  obtain ⟨n, rfl⟩ := g
  exact ⟨n, rfl⟩

theorem onlyMemory_setByte (s : State) (a : Nat) (v : Byte) : OnlyMemory s (s.setByte a v) := ⟨_, rfl⟩

theorem onlyMemory_setHalf (s : State) (a : Nat) (v : Half) : OnlyMemory s (s.setHalf a v) := by
  unfold State.setHalf
  split <;> exact (onlyMemory_setByte ..).trans (onlyMemory_setByte ..)

theorem onlyMemory_setWord (s : State) (a : Nat) (v : Word) : OnlyMemory s (s.setWord a v) := by
  unfold State.setWord
  split <;> exact (onlyMemory_setHalf ..).trans (onlyMemory_setHalf ..)

theorem onlyMemory_setLane (s : State) (a : Nat) (chosen : Nat → Bool) (w : Word) (k : Nat) :
    OnlyMemory s (s.setLane a chosen w k) := by
  unfold State.setLane
  split
  · exact onlyMemory_setByte ..
  · exact ⟨_, rfl⟩

theorem onlyMemory_setLanes (s : State) (a : Nat) (chosen : Nat → Bool) (w : Word) :
    OnlyMemory s (s.setLanes a chosen w) :=
  (onlyMemory_setLane s a chosen w 0).trans ((onlyMemory_setLane _ a chosen w 1).trans
    ((onlyMemory_setLane _ a chosen w 2).trans (onlyMemory_setLane _ a chosen w 3)))

/-- A write to a state with the same memory. -/
theorem TakesBytes.of_mem {s u t : State} {a n : Nat} {f : Nat → Byte} (h : TakesBytes u t a n f)
    (hm : u.mem = s.mem) : TakesBytes s t a n f := by
  obtain ⟨inner, outer⟩ := h
  refine ⟨inner, fun b hb => (outer b hb).trans ?_⟩
  unfold State.byteAt; rw [hm]

/-- The state a store writes to. -/
def State.beforeStore (s : State) : State := (s.retire []).disturbLink

@[simp] theorem State.beforeStore_cfg (s : State) : s.beforeStore.cfg = s.cfg := by simp [State.beforeStore]
@[simp] theorem State.beforeStore_cp0 (s : State) : s.beforeStore.cp0 = s.cp0 := by simp [State.beforeStore]
@[simp] theorem State.beforeStore_mem (s : State) : s.beforeStore.mem = s.mem := by simp [State.beforeStore]

/-- A store whose write answers a state. -/
theorem stores_of_write {i : Instr} {s t : State} {base : Reg} {off : Half} {n : Nat}
    {write : State → PAddr → Acc State} {pa : PAddr} {a size : Nat} {bytes : Nat → Byte}
    (he : exec i s = s.storeGpr base off n write) (hl : s.locate (s.effAddr base off) n .store = .ok pa)
    (hw : write s.beforeStore pa = .ok t) (hm : OnlyMemory s.beforeStore t)
    (hb : TakesBytes s.beforeStore t a size bytes) : Stores i s a size bytes := by
  have run := exec_of_located he hl hw
  have stored := hb.of_mem s.beforeStore_mem
  obtain ⟨m, rfl⟩ := hm
  refine ⟨_, run, stored, ?_, ?_, ?_, ?_⟩
  · simp [Advances, State.beforeStore]
  · apply keepsAllBut_of_fields <;> simp [State.beforeStore]
  · simp [State.beforeStore]
  · simp only [State.beforeStore, State.disturbLink_llBit, State.retire_llBit]
    exact fun h => (Bool.and_eq_true_iff.1 h).1

/-- Settles O17. -/
theorem storeResults : Obligations.StoreResults := by
  intro s base rt off pa
  refine ⟨decode_of_encode rfl rfl, decode_of_encode rfl rfl, decode_of_encode rfl rfl, fun hl ha => ?byte,
    fun hl ha => ?half, fun hl ha => ?word⟩
  case byte =>
    have run : exec (.sb base rt off) s = s.storeGpr base off 1 fun u pa => u.putByte pa _ := rfl
    exact stores_of_write run hl (putByte_ok s.beforeStore_cfg s.beforeStore_cp0 ha _) (onlyMemory_setByte ..)
      (setByte_takesBytes ..)
  case half =>
    have stored := setHalf_takesBytes s.beforeStore (s.halfPlace pa).toNat ((s.srcRt rt).extractLsb' 0 16)
    rw [State.beforeStore_cfg] at stored
    have run : exec (.sh base rt off) s = s.storeGpr base off 2 fun u pa => u.putHalf pa _ := rfl
    exact stores_of_write run hl (putHalf_ok s.beforeStore_cfg s.beforeStore_cp0 ha _) (onlyMemory_setHalf ..) stored
  case word =>
    have stored := setWord_takesBytes s.beforeStore pa.toNat (s.srcRt rt)
    rw [State.beforeStore_cfg] at stored
    have run : exec (.sw base rt off) s = s.storeGpr base off 4 fun u pa => u.putWord pa _ := rfl
    exact stores_of_write run hl (putWord_ok s.beforeStore_cfg ha _) (onlyMemory_setWord ..) stored

/-- A write of chosen lanes: each byte of the word takes its lane, or stays (spec/20_memory.md R67). -/
theorem setLanes_takesBytes (s : State) (a : Nat) (chosen : Nat → Bool) (w : Word) :
    TakesBytes s (s.setLanes a chosen w) a 4
      (fun o => if chosen (s.lane o) then w.extractLsb' (8 * s.lane o) 8 else s.byteAt (a + o)) := by
  refine ⟨fun o ho => ?_, fun b hb => ?_⟩
  · rw [State.byteAt_setLanes, Nat.add_sub_cancel_left]
    simp [ho]
  · rw [State.byteAt_setLanes, if_neg (by omega)]

/-- A store of chosen lanes of a word. -/
theorem stores_lanes {i : Instr} {s : State} {base : Reg} {off : Half} {pa : PAddr} {chosen : Nat → Bool} {w : Word}
    {bytes : Nat → Byte} (he : exec i s = s.storeGpr base off 1 (fun u pa => u.putLanes pa chosen w))
    (hl : s.locate (s.effAddr base off) 1 .store = .ok pa) (ha : s.admits (wordPlace pa).toNat 4 .store = true)
    (hb : ∀ o, o < 4 → (if chosen (s.lane o) then w.extractLsb' (8 * s.lane o) 8
      else s.byteAt ((wordPlace pa).toNat + o)) = bytes o) : Stores i s (wordPlace pa).toNat 4 bytes := by
  refine stores_of_write he hl (putLanes_ok s.beforeStore_cfg ha chosen w) (onlyMemory_setLanes ..)
    ((setLanes_takesBytes ..).congr fun o ho => ?_)
  rw [← hb o ho]
  simp [State.lane, State.byteAt]

/-- The byte that SWL's shift brings into a lane up to the first one (spec/40_load_store.md R152). -/
theorem extract_swlShift (v : Word) {b l : Nat} (hb : b < 4) (h : l ≤ b) :
    (v >>> (24 - 8 * b)).extractLsb' (8 * l) 8 = v.extractLsb' (24 - 8 * (b - l)) 8 := by
  rw [extract_ushiftRight]; congr 1; omega

/-- The byte that SWR's shift brings into a lane from the first one up (spec/40_load_store.md R153). -/
theorem extract_swrShift (v : Word) {b l : Nat} (hl : l < 4) (h : b ≤ l) :
    (v <<< (8 * b)).extractLsb' (8 * l) 8 = v.extractLsb' (8 * (l - b)) 8 := by
  rw [extract_shiftLeft v (by omega) (by omega)]; congr 1; omega

/-- Settles O18: the lanes that SWL and SWR choose, by the numbers of their bytes. -/
theorem unalignedStores : Obligations.UnalignedStores := by
  intro s base rt off pa va a w v num
  refine ⟨decode_of_encode rfl rfl, decode_of_encode rfl rfl, fun hl ha =>
    ⟨stores_lanes rfl hl ha fun o ho => ?swl, stores_lanes rfl hl ha fun o ho => ?swr⟩⟩
  all_goals
    have ha4 : a < 4 := Nat.mod_lt _ (by omega)
    have num4 : num o < 4 := s.byteNumber_lt ho
    have first : s.byteLane va = if s.bigEndianCore then 3 - a else a := s.byteLane_eq va
    have lane : s.lane o = if s.bigEndianCore then 3 - num o else num o := s.lane_eq_byteNumber ho
    change (if decide _ = true then _ else s.byteAt (w + o)) = _
    rw [first, lane]
    cases s.bigEndianCore <;> simp only [if_true, if_false, Bool.false_eq_true, decide_eq_true_eq]
  case swl.false =>
    by_cases h : num o ≤ a
    · rw [if_pos h, if_pos h, extract_swlShift v ha4 h]
    · rw [if_neg h, if_neg h]
  case swl.true =>
    by_cases h : a ≤ num o
    · rw [if_pos (by omega), if_pos h, extract_swlShift v (by omega) (by omega),
        show 3 - a - (3 - num o) = num o - a by omega]
    · rw [if_neg (by omega), if_neg h]
  case swr.false =>
    by_cases h : a ≤ num o
    · rw [if_pos h, if_pos h, extract_swrShift v num4 h]
    · rw [if_neg h, if_neg h]
  case swr.true =>
    by_cases h : num o ≤ a
    · rw [if_pos (by omega), if_pos h, extract_swrShift v (by omega) (by omega),
        show 3 - num o - (3 - a) = a - num o by omega]
    · rw [if_neg (by omega), if_neg h]

/-! ## SC (spec/40_load_store.md R154, spec/20_memory.md R84) -/

/-- How an SC ends, but for memory and the value of rt: the link is over, and nothing else changes. -/
def ScEnds (s t : State) : Prop :=
  t.llBit = false ∧ KeepsLink s t ∧ Advances s t ∧ KeepsAllBut [.gprs, .memory, .link] s t

theorem State.finishSc_takesGpr (s : State) (rt : Reg) (ok : Bool) :
    TakesGpr s (s.finishSc rt ok) rt (if ok then 1 else 0) := (s.writeBack rt (if ok then 1 else 0)).1

theorem State.finishSc_ends (s : State) (rt : Reg) (ok : Bool) : ScEnds s (s.finishSc rt ok) := by
  refine ⟨by simp, by simp, by simp [Advances], ?_⟩
  apply keepsAllBut_of_fields <;> simp

/-- A write to memory changes nothing of the end of an SC. -/
theorem ScEnds.of_onlyMemory {s u t : State} (h : ScEnds s u) (hm : OnlyMemory u t) : ScEnds s t := by
  obtain ⟨m, rfl⟩ := hm
  obtain ⟨link, kept, advances, frame⟩ := h
  refine ⟨link, kept, advances, fun p hp => ?_⟩
  have same := frame p hp
  cases p with
  | gprs | memory | link => simp at hp
  | _ => exact same

theorem TakesGpr.of_onlyMemory {s u t : State} {d : Reg} {v : Word} (h : TakesGpr s u d v) (hm : OnlyMemory u t) :
    TakesGpr s t d v := by
  obtain ⟨m, rfl⟩ := hm
  exact h

section
variable {s : State} {base rt : Reg} {off : Half} {pa : PAddr}

/-- An SC that fails makes no access. -/
theorem sc_fails (hl : s.locate (s.effAddr base off) 4 .store = .ok pa)
    (hs : s.scSucceeds (s.effAddr base off) pa = false) :
    Completes (.sc base rt off) s (fun t => (TakesGpr s t rt 0 ∧ ∀ a, t.byteAt a = s.byteAt a) ∧ ScEnds s t) := by
  have run : exec (.sc base rt off) s = .next (s.finishSc rt false) := exec_of_located rfl hl (by rw [hs]; rfl)
  exact ⟨_, run, ⟨s.finishSc_takesGpr rt false, fun a => by simp [State.byteAt]⟩, s.finishSc_ends rt false⟩

/-- An SC that succeeds stores as SW does. -/
theorem sc_stores (hl : s.locate (s.effAddr base off) 4 .store = .ok pa)
    (hs : s.scSucceeds (s.effAddr base off) pa = true) (ha : s.admits pa.toNat 4 .store = true) :
    Completes (.sc base rt off) s (fun t => (TakesGpr s t rt 1
      ∧ TakesBytes s t pa.toNat 4 (fun k => byteOf s.cfg.bigEndianMem 4 k (s.srcRt rt))) ∧ ScEnds s t) := by
  have run : exec (.sc base rt off) s = .next ((s.finishSc rt true).setWord pa.toNat (s.srcRt rt)) :=
    exec_of_located rfl hl (by rw [if_pos hs, putWord_ok (by simp) ha])
  have only := onlyMemory_setWord (s.finishSc rt true) pa.toNat (s.srcRt rt)
  have stored := (setWord_takesBytes (s.finishSc rt true) pa.toNat (s.srcRt rt)).of_mem (s := s) (by simp)
  rw [State.finishSc_cfg] at stored
  exact ⟨_, run, ⟨(s.finishSc_takesGpr rt true).of_onlyMemory only, stored⟩,
    (s.finishSc_ends rt true).of_onlyMemory only⟩

end

theorem Completes.imp {i : Instr} {s : State} {P Q : State → Prop} (h : Completes i s P) (hpq : ∀ t, P t → Q t) :
    Completes i s Q := by
  obtain ⟨t, run, ht⟩ := h
  exact ⟨t, run, hpq t ht⟩

/-- Settles O19: an SC stores or fails as State.scSucceeds says. -/
theorem storeConditional : Obligations.StoreConditional := by
  intro s base rt off pa
  refine ⟨decode_of_encode rfl rfl, fun hl => ⟨fun h => ?unlinked, fun h hva hpa hattr hext ha => ?linked,
    fun _ ha => ?either⟩⟩
  case unlinked => exact sc_fails hl (s.scSucceeds_unlinked _ pa h)
  case linked =>
    exact sc_stores hl (s.scSucceeds_linked _ pa h ((s.sameLink_iff _ pa).2 ⟨hva, hpa, hattr⟩) hext) ha
  case either =>
    cases hs : s.scSucceeds (s.effAddr base off) pa
    · exact (sc_fails hl hs).imp fun t ⟨failed, ended⟩ => ⟨.inr failed, ended⟩
    · exact (sc_stores hl hs ha).imp fun t ⟨done, ended⟩ => ⟨.inl done, ended⟩

end Sys2Proof.Machine
end

section
/-! The immediate ALU instructions (spec/41_alu_immediate.md), and exact signed results or Integer Overflow. -/
namespace Sys2Proof.Machine

/-! ## Values without a trap -/

/-- A comparison gives 1 or 0 (spec/41_alu_immediate.md R162, R163). -/
theorem boolWord_decide (p : Prop) [Decidable p] : boolWord (decide p) = if p then 1 else 0 := by
  simp only [boolWord, decide_eq_true_eq]

/-- A zero-extended immediate clears the upper half (spec/41_alu_immediate.md R164). -/
theorem and_zext16 (a : Word) (imm : Half) : a &&& zext16 imm = 0#16 ++ (imm &&& a.extractLsb' 0 16) := by
  ext i hi
  rw [BitVec.getElem_and, BitVec.getElem_append, zext16, BitVec.getElem_setWidth]
  by_cases h : i < 16
  · simp [h, hi, Bool.and_comm]
  · simp [h, BitVec.getLsbD_of_ge imm i (by omega)]

/-- A zero-extended immediate keeps the upper half (spec/41_alu_immediate.md R165). -/
theorem or_zext16 (a : Word) (imm : Half) :
    a ||| zext16 imm = a.extractLsb' 16 16 ++ (imm ||| a.extractLsb' 0 16) := by
  ext i hi
  rw [BitVec.getElem_or, BitVec.getElem_append, zext16, BitVec.getElem_setWidth]
  by_cases h : i < 16
  · simp [h, hi, Bool.or_comm]
  · simp [h, hi, BitVec.getLsbD_of_ge imm i (by omega), show 16 + (i - 16) = i by omega]

/-- An instruction that is an immediate operation writes that operation's value. -/
theorem completes_of_aluImm {i : Instr} {s : State} {rt : Reg} (rs : Reg) (f : Word → Word) {v : Word}
    (he : exec i s = s.aluImm rs rt f) (hv : f (s.srcRs rs) = v) :
    Completes i s (fun t => TakesGpr s t rt v ∧ Advances s t ∧ KeepsAllBut [.gprs] s t) := by
  rw [Completes, he, ← hv]
  exact s.aluImm_next rs rt f

/-- Settles O1: each is an immediate operation, but LUI, which reads no register. -/
theorem aluImmediateResults : Obligations.AluImmediateResults := by
  intro s rs rt imm a x z
  simp only [List.forall_mem_cons, List.not_mem_nil, false_imp_iff, implies_true, and_true]
  refine ⟨⟨decode_of_encode rfl rfl, ?addiu⟩, ⟨decode_of_encode rfl rfl, ?slti⟩, ⟨decode_of_encode rfl rfl, ?sltiu⟩,
    ⟨decode_of_encode rfl rfl, ?andi⟩, ⟨decode_of_encode rfl rfl, ?ori⟩, ⟨decode_of_encode rfl rfl, ?xori⟩,
    ⟨decode_of_encode rfl rfl, ?lui⟩⟩
  case addiu => exact completes_of_aluImm rs (· + sext16 imm) rfl rfl
  case slti => exact completes_of_aluImm rs (fun a => boolWord (a.slt (sext16 imm))) rfl (boolWord_decide _)
  case sltiu => exact completes_of_aluImm rs (fun a => boolWord (a.ult (sext16 imm))) rfl (boolWord_decide _)
  case andi => exact completes_of_aluImm rs (· &&& zext16 imm) rfl (and_zext16 a imm)
  case ori => exact completes_of_aluImm rs (· ||| zext16 imm) rfl (or_zext16 a imm)
  case xori => exact completes_of_aluImm rs (· ^^^ zext16 imm) rfl rfl
  case lui => exact ⟨_, rfl, s.writeBack rt (imm ++ 0#16)⟩

/-! ## Results that may overflow (spec/41_alu_immediate.md R160, spec/42_alu_register.md R170, R172) -/

/-- The sum of two words fits into 33 bits. -/
theorem toInt_sum33 (a b : Word) : (sum33 a b).toInt = a.toInt + b.toInt := by
  have ha := a.toInt_lt
  have ha' := a.le_toInt
  have hb := b.toInt_lt
  have hb' := b.le_toInt
  rw [sum33, BitVec.toInt_add, BitVec.toInt_signExtend_of_le (by omega), BitVec.toInt_signExtend_of_le (by omega)]
  exact Int.bmod_eq_of_le (by omega) (by omega)

/-- So does their difference. -/
theorem toInt_diff33 (a b : Word) : (diff33 a b).toInt = a.toInt - b.toInt := by
  have ha := a.toInt_lt
  have ha' := a.le_toInt
  have hb := b.toInt_lt
  have hb' := b.le_toInt
  rw [diff33, BitVec.toInt_sub, BitVec.toInt_signExtend_of_le (by omega), BitVec.toInt_signExtend_of_le (by omega)]
  exact Int.bmod_eq_of_le (by omega) (by omega)

/-- Bits 32 and 31 of a 33-bit number differ when it is no signed 32-bit number. -/
theorem overflows_iff (v : BitVec 33) : overflows v = true ↔ v.toInt < -2 ^ 31 ∨ 2 ^ 31 - 1 < v.toInt := by
  have hv := v.isLt
  have bits : overflows v = true ↔ v.toNat / 2 ^ 32 % 2 ≠ v.toNat / 2 ^ 31 % 2 := by
    simp only [overflows, BitVec.getLsbD, Nat.testBit_eq_decide_div_mod_eq, bne_iff_ne, ne_eq, decide_eq_decide]
    omega
  rw [bits, BitVec.toInt_eq_toNat_cond]
  split <;> omega

/-- Dropping bit 32 is what sign extension to 32 bits does, which is the number modulo 2^32. -/
theorem setWidth_eq_ofInt_toInt (v : BitVec 33) : v.setWidth 32 = BitVec.ofInt 32 v.toInt :=
  (BitVec.signExtend_eq_setWidth_of_le v (by omega)).symm

/-- A trapping operation writes the exact result n, or traps when n is no signed 32-bit number. -/
theorem completes_of_aluTrapping {i : Instr} {s : State} {d : Reg} {v : BitVec 33} {n : Int}
    (he : exec i s = s.aluTrapping d v) (hn : v.toInt = n) :
    (-2 ^ 31 ≤ n → n ≤ 2 ^ 31 - 1 → Completes i s (fun t =>
        TakesGpr s t d (BitVec.ofInt 32 n) ∧ Advances s t ∧ KeepsAllBut [.gprs] s t))
      ∧ (n < -2 ^ 31 ∨ 2 ^ 31 - 1 < n → Completes i s (fun t => EntersPlain s t 12)) := by
  subst hn
  obtain ⟨t, run, ends⟩ := s.aluTrapping_next d v
  simp only [overflows_iff, setWidth_eq_ofInt_toInt] at ends
  refine ⟨fun low high => ⟨t, he.trans run, ?_⟩, fun outside => ⟨t, he.trans run, ?_⟩⟩
  · rwa [if_neg (by omega)] at ends
  · rwa [if_pos outside] at ends

/-- Settles O3: the 33-bit results are the exact ones. -/
theorem overflowTrapsExactly : Obligations.OverflowTrapsExactly := by
  intro s rs rt rd imm a b
  simp only [List.forall_mem_cons, List.not_mem_nil, false_imp_iff, implies_true, and_true]
  have immediate : (sum33 (s.srcRs rs) (sext16 imm)).toInt = a + imm.toInt := by
    rw [toInt_sum33, sext16, BitVec.toInt_signExtend_of_le (by omega)]
  exact ⟨⟨decode_of_encode rfl rfl, completes_of_aluTrapping rfl (toInt_sum33 _ _)⟩,
    ⟨decode_of_encode rfl rfl, completes_of_aluTrapping rfl (toInt_diff33 _ _)⟩,
    ⟨decode_of_encode rfl rfl, completes_of_aluTrapping rfl immediate⟩⟩

end Sys2Proof.Machine
end

section
/-! The three-operand ALU instructions without a trap, the leading bit counts and the conditional moves
(spec/42_alu_register.md). -/
namespace Sys2Proof.Machine

/-! ## Three operands -/

/-- The difference of two words is the exact one modulo 2^32 (spec/42_alu_register.md R173). -/
theorem sub_eq_ofInt (a b : Word) : a - b = BitVec.ofInt 32 ((a.toNat : Int) - b.toNat) := by
  rw [Int.sub_eq_add_neg, BitVec.ofInt_add, BitVec.ofInt_neg, BitVec.ofInt_natCast, BitVec.ofInt_natCast,
    BitVec.ofNat_toNat, BitVec.ofNat_toNat, BitVec.setWidth_eq, BitVec.setWidth_eq, BitVec.sub_eq_add_neg]

/-- An instruction that is a three-operand operation writes that operation's value. -/
theorem completes_of_aluReg {i : Instr} {s : State} {rd : Reg} (rs rt : Reg) (f : Word → Word → Word) {v : Word}
    (he : exec i s = s.aluReg rs rt rd f) (hv : f (s.srcRs rs) (s.srcRt rt) = v) :
    Completes i s (fun t => TakesGpr s t rd v ∧ Advances s t ∧ KeepsAllBut [.gprs] s t) := by
  rw [Completes, he, ← hv]
  exact s.aluReg_next rs rt rd f

/-- Settles O2: each is a three-operand operation with the stated value. -/
theorem aluRegisterResults : Obligations.AluRegisterResults := by
  intro s rs rt rd a b
  simp only [List.forall_mem_cons, List.not_mem_nil, false_imp_iff, implies_true, and_true]
  refine ⟨⟨decode_of_encode rfl rfl, ?addu⟩, ⟨decode_of_encode rfl rfl, ?subu⟩, ⟨decode_of_encode rfl rfl, ?slt⟩,
    ⟨decode_of_encode rfl rfl, ?sltu⟩, ⟨decode_of_encode rfl rfl, ?and⟩, ⟨decode_of_encode rfl rfl, ?or⟩,
    ⟨decode_of_encode rfl rfl, ?xor⟩, ⟨decode_of_encode rfl rfl, ?nor⟩⟩
  case addu => exact completes_of_aluReg rs rt (· + ·) rfl (BitVec.add_def a b)
  case subu => exact completes_of_aluReg rs rt (· - ·) rfl (sub_eq_ofInt a b)
  case slt => exact completes_of_aluReg rs rt (fun a b => boolWord (a.slt b)) rfl (boolWord_decide _)
  case sltu => exact completes_of_aluReg rs rt (fun a b => boolWord (a.ult b)) rfl (boolWord_decide _)
  case and => exact completes_of_aluReg rs rt (· &&& ·) rfl rfl
  case or => exact completes_of_aluReg rs rt (· ||| ·) rfl rfl
  case xor => exact completes_of_aluReg rs rt (· ^^^ ·) rfl rfl
  case nor => exact completes_of_aluReg rs rt (fun a b => ~~~(a ||| b)) rfl rfl

/-! ## Leading bits -/

/-- A count of leading bits writes the number that `leadingFrom_spec` determines, or is refused. -/
theorem counts_of_countBits {i : Instr} {s : State} {rs rt rd : Reg} {b : Bool}
    (he : exec i s = s.countBits b rs rt rd) :
    (rt = rd → ∃ n, n ≤ 32 ∧ (∀ k, k < n → (s.srcRs rs).getLsbD (31 - k) = b)
        ∧ (n < 32 → (s.srcRs rs).getLsbD (31 - n) = !b)
        ∧ Completes i s (fun t => TakesGpr s t rd (BitVec.ofNat 32 n) ∧ Advances s t ∧ KeepsAllBut [.gprs] s t))
      ∧ (rt ≠ rd → Refuses i s .countRegistersDiffer) := by
  obtain ⟨counted, refused⟩ := s.countBits_cases b rs rt rd
  obtain ⟨atMost, leading, next⟩ := leadingFrom_spec b (s.srcRs rs) 32
  refine ⟨fun same => ⟨_, atMost, leading, fun short => Bool.eq_not.2 (next short), ?_⟩,
    fun differ => he.trans (refused differ)⟩
  obtain ⟨t, run, ends⟩ := counted same
  exact ⟨t, he.trans run, ends⟩

/-- Settles O4: CLO counts leading ones, CLZ leading zeros. -/
theorem leadingBitCounts : Obligations.LeadingBitCounts := by
  intro s rs rt rd a
  simp only [List.forall_mem_cons, List.not_mem_nil, false_imp_iff, implies_true, and_true]
  exact ⟨⟨decode_of_encode rfl rfl, counts_of_countBits rfl⟩, ⟨decode_of_encode rfl rfl, counts_of_countBits rfl⟩⟩

/-! ## Conditional moves -/

/-- A conditional move writes GPR[rs] where its condition on GPR[rt] holds, and otherwise nothing. -/
theorem moves_of_condMove {i : Instr} {s : State} {rs rt rd : Reg} (cond : Word → Bool)
    (he : exec i s = s.condMove rs rt rd cond) :
    (cond (s.srcRt rt) = true → Completes i s (fun t =>
        TakesGpr s t rd (s.srcRs rs) ∧ Advances s t ∧ KeepsAllBut [.gprs] s t))
      ∧ (cond (s.srcRt rt) = false → Completes i s (fun t => Advances s t ∧ KeepsAllBut [] s t)) := by
  obtain ⟨t, run, advances, ends⟩ := s.condMove_next rs rt rd cond
  refine ⟨fun moved => ⟨t, he.trans run, ?_⟩, fun kept => ⟨t, he.trans run, advances, ?_⟩⟩
  · rw [if_pos moved] at ends
    obtain ⟨takes, frame⟩ := ends
    exact ⟨takes, advances, frame⟩
  · rwa [kept, if_neg Bool.false_ne_true] at ends

/-- Settles O5: MOVN moves where GPR[rt] is not zero, MOVZ where it is. -/
theorem conditionalMoves : Obligations.ConditionalMoves := by
  intro s rs rt rd b
  simp only [List.forall_mem_cons, List.not_mem_nil, false_imp_iff, implies_true, and_true]
  exact ⟨⟨decode_of_encode rfl rfl, moves_of_condMove (fun b => b ≠ 0) rfl⟩,
    ⟨decode_of_encode rfl rfl, moves_of_condMove (fun b => b = 0) rfl⟩⟩

end Sys2Proof.Machine
end

section
/-! The shifts as arithmetic on numbers, and the idioms NOP and SSNOP (spec/43_shift.md). -/
namespace Sys2Proof.Machine

/-! ## The values of shifts -/

/-- A left shift multiplies modulo 2^32 (spec/43_shift.md R190). -/
theorem shiftLeft_eq_ofNat_mul (a : Word) (n : Nat) : a <<< n = BitVec.ofNat 32 (a.toNat * 2 ^ n) := by
  apply BitVec.eq_of_toNat_eq
  rw [BitVec.toNat_shiftLeft, BitVec.toNat_ofNat, Nat.shiftLeft_eq]

/-- A logical right shift is the unsigned quotient (spec/43_shift.md R191). -/
theorem ushiftRight_eq_ofNat_div (a : Word) (n : Nat) : a >>> n = BitVec.ofNat 32 (a.toNat / 2 ^ n) := by
  rw [← Nat.shiftRight_eq_div_pow, ← BitVec.toNat_ushiftRight, BitVec.ofNat_toNat, BitVec.setWidth_eq]

/-- An arithmetic right shift is the signed quotient, rounded down (spec/43_shift.md R192). -/
theorem sshiftRight_eq_ofInt_div (a : Word) (n : Nat) : a.sshiftRight n = BitVec.ofInt 32 (a.toInt / 2 ^ n) := by
  rw [BitVec.sshiftRight, Int.shiftRight_eq_div_pow, Nat.cast_pow, Nat.cast_ofNat]

/-- The low five bits of a word are its remainder by 32 (spec/43_shift.md R193). -/
theorem toNat_lowFive (a : Word) : (a.extractLsb' 0 5).toNat = a.toNat % 32 := BitVec.extractLsb'_toNat 0 5 a

/-! ## Shifts complete -/

section
variable {i : Instr} {s : State} {rs rt rd : Reg} {v : Word}

/-- An instruction that is a constant shift writes that shift's value. -/
theorem completes_of_shiftConst (f : Word → Word) (he : exec i s = s.shiftConst rt rd f) (hv : f (s.srcRt rt) = v) :
    Completes i s (fun t => TakesGpr s t rd v ∧ Advances s t ∧ KeepsAllBut [.gprs] s t) := by
  rw [Completes, he, ← hv]
  exact s.shiftConst_next rt rd f

/-- An instruction that is a variable shift writes the value of the shift by GPR[rs] modulo 32. -/
theorem completes_of_shiftVar (f : Word → Nat → Word) (he : exec i s = s.shiftVar rs rt rd f)
    (hv : f (s.srcRt rt) ((s.srcRs rs).toNat % 32) = v) :
    Completes i s (fun t => TakesGpr s t rd v ∧ Advances s t ∧ KeepsAllBut [.gprs] s t) := by
  rw [Completes, he, ← hv, ← toNat_lowFive]
  exact s.shiftVar_next rs rt rd f

end

/-! ## Shifts into register 0 -/

/-- A write to register 0 changes no general register (spec/10_state.md R22). -/
theorem readGpr_of_takesGpr_zero {s t : State} {v : Word} (h : TakesGpr s t 0 v) (r : Reg) :
    t.readGpr r = s.readGpr r := by
  obtain ⟨zero, others⟩ := h
  by_cases hr : r = 0
  · subst hr
    rw [zero, if_pos rfl]
    exact s.readGpr_zero.symm
  · exact others r hr

/-- A constant shift into register 0 changes nothing but the program counter (spec/43_shift.md R196, R197). -/
theorem passes_of_shiftConst_zero {i : Instr} {s : State} {rt : Reg} (f : Word → Word)
    (he : exec i s = s.shiftConst rt 0 f) : Completes i s (fun t => Advances s t ∧ KeepsAllBut [] s t) := by
  obtain ⟨t, run, takes, advances, frame⟩ := completes_of_shiftConst f he rfl
  refine ⟨t, run, advances, fun p _ => ?_⟩
  by_cases hp : p = .gprs
  · subst hp
    exact readGpr_of_takesGpr_zero takes
  · exact frame p (by simpa using hp)

/-- Settles O6: constant and variable shifts with their values in numbers; NOP and SSNOP shift into register 0. -/
theorem shiftResults : Obligations.ShiftResults := by
  intro s rs rt rd sa b n
  simp only [List.forall_mem_cons, List.not_mem_nil, false_imp_iff, implies_true, and_true]
  refine ⟨⟨⟨decode_of_encode rfl rfl, ?sll⟩, ⟨decode_of_encode rfl rfl, ?srl⟩, ⟨decode_of_encode rfl rfl, ?sra⟩,
    ⟨decode_of_encode rfl rfl, ?sllv⟩, ⟨decode_of_encode rfl rfl, ?srlv⟩, ⟨decode_of_encode rfl rfl, ?srav⟩⟩,
    ⟨decode_of_encode rfl rfl, ?nop, ?sllByZero⟩, ⟨decode_of_encode rfl rfl, ?ssnop, ?sllByOne⟩⟩
  case sll => exact completes_of_shiftConst (· <<< sa.toNat) rfl (shiftLeft_eq_ofNat_mul b _)
  case srl => exact completes_of_shiftConst (· >>> sa.toNat) rfl (ushiftRight_eq_ofNat_div b _)
  case sra => exact completes_of_shiftConst (·.sshiftRight sa.toNat) rfl (sshiftRight_eq_ofInt_div b _)
  case sllv => exact completes_of_shiftVar (· <<< ·) rfl (shiftLeft_eq_ofNat_mul b n)
  case srlv => exact completes_of_shiftVar (· >>> ·) rfl (ushiftRight_eq_ofNat_div b n)
  case srav => exact completes_of_shiftVar BitVec.sshiftRight rfl (sshiftRight_eq_ofInt_div b n)
  case nop => exact passes_of_shiftConst_zero id rfl
  case ssnop => exact passes_of_shiftConst_zero (· <<< 1) rfl
  case sllByZero => exact passes_of_shiftConst_zero (· <<< 0) rfl
  case sllByOne => exact passes_of_shiftConst_zero (· <<< 1) rfl

end Sys2Proof.Machine
end

section
/-! HI and LO (spec/44_muldiv.md): what their writers leave, the multiplies and divides as exact integers, and the moves
between them and the general registers. -/
namespace Sys2Proof.Machine

/-! ## Writers (spec/44_muldiv.md R214) -/

/-- After a writer of HI (hi) or LO (lo): its window is undone, it completes, and the pair holds these values. -/
def State.wrote (s : State) (hi lo : Bool) (h l : Word) (fresh : Bool) : State :=
  { (s.spoilWindow hi lo).retire [] with hi := h, lo := l, pairFresh := fresh }

section
variable (s : State) (hi lo : Bool) (h l : Word) (fresh : Bool)

/-- A writer changes no general register but through its window. -/
theorem State.readGpr_wrote (r : Reg) : (s.wrote hi lo h l fresh).readGpr r = (s.spoilWindow hi lo).readGpr r :=
  (State.readGpr_congr rfl r).trans (State.readGpr_retire _ [] r)

/-- How each writer ends, whatever values it writes. -/
theorem State.wrote_ends : (s.wrote hi lo h l fresh).pairFresh = fresh ∧ KeepsGprsBut s (s.wrote hi lo h l fresh) hi lo
    ∧ Advances s (s.wrote hi lo h l fresh) ∧ KeepsAllBut [.gprs, .hiLo] s (s.wrote hi lo h l fresh) := by
  refine ⟨rfl, fun r kept => ?_, ?_, ?_⟩
  · rw [State.readGpr_wrote, s.spoilWindow_readGpr hi lo r kept]
  · simp [State.wrote, Advances]
  · apply keepsAllBut_of_fields <;> simp [State.wrote]

end

/-- A writer whose window names none of its source registers reads them as they stood before it. -/
theorem State.source_spoilWindow {s : State} {hi lo : Bool} {regs : List Reg} (clear : UndoesNoneOf s hi lo regs)
    (site : DrawSite) {r : Reg} (hr : r ∈ regs) : (s.spoilWindow hi lo).source site r = s.source site r := by
  have kept : (s.spoilWindow hi lo).readGpr r = s.readGpr r :=
    s.spoilWindow_readGpr hi lo r fun e undone same => clear e undone (same ▸ hr)
  simp only [State.source_eq, State.freeWord, State.free, State.spoilWindow_loadPending, State.spoilWindow_draws, kept]

/-- Both source registers of a multiply or divide are then as read. -/
theorem State.sources_spoilWindow {s : State} {hi lo : Bool} {rs rt : Reg} (clear : UndoesNoneOf s hi lo [rs, rt]) :
    (s.spoilWindow hi lo).srcRs rs = s.srcRs rs ∧ (s.spoilWindow hi lo).srcRt rt = s.srcRt rt :=
  ⟨State.source_spoilWindow clear .delayRs (by simp), State.source_spoilWindow clear .delayRt (by simp)⟩

/-! ## Products as integers (spec/44_muldiv.md R200 to R206) -/

theorem signedProduct_eq_ofInt (a b : Word) : signedProduct a b = BitVec.ofInt 64 (a.toInt * b.toInt) :=
  (BitVec.ofInt_mul ..).symm

theorem unsignedProduct_eq_ofInt (a b : Word) : unsignedProduct a b = BitVec.ofInt 64 ((a.toNat : Int) * b.toNat) := by
  rw [BitVec.ofInt_mul, BitVec.ofInt_natCast, BitVec.ofInt_natCast, BitVec.ofNat_toNat, BitVec.ofNat_toNat]; rfl

/-- The low half of a product is the product modulo 2^32, signed or not (spec/44_muldiv.md R202). -/
theorem mul_eq_ofInt (a b : Word) : a * b = BitVec.ofInt 32 (a.toInt * b.toInt) := by
  rw [BitVec.ofInt_mul, BitVec.ofInt_toInt, BitVec.ofInt_toInt]

/-- An accumulated sum, modulo 2^64 (spec/44_muldiv.md R203, R204). -/
theorem add_ofInt (acc : DWord) (n : Int) : acc + BitVec.ofInt 64 n = BitVec.ofInt 64 (acc.toNat + n) := by
  rw [BitVec.ofInt_add, BitVec.ofInt_natCast, BitVec.ofNat_toNat, BitVec.setWidth_eq]

/-- An accumulated difference, modulo 2^64 (spec/44_muldiv.md R205, R206). -/
theorem sub_ofInt (acc : DWord) (n : Int) : acc - BitVec.ofInt 64 n = BitVec.ofInt 64 (acc.toNat + -n) := by
  rw [BitVec.sub_eq_add_neg, ← BitVec.ofInt_neg, add_ofInt]

/-! ## Multiplies -/

section
variable {i : Instr} {s : State} {rs rt : Reg} {n : Int}

/-- A multiply puts its product into the pair, from operands as its window leaves them. -/
theorem completes_of_multiply (f : Word → Word → DWord) (he : exec i s = s.multiply rs rt f)
    (hv : f ((s.spoilWindow true true).srcRs rs) ((s.spoilWindow true true).srcRt rt) = BitVec.ofInt 64 n) :
    Completes i s (fun t => t.hi ++ t.lo = BitVec.ofInt 64 n ∧ t.pairFresh = true ∧ KeepsGprsBut s t true true
      ∧ Advances s t ∧ KeepsAllBut [.gprs, .hiLo] s t) :=
  ⟨s.wrote true true _ _ true, he, (words_of_dword _).trans hv, s.wrote_ends ..⟩

/-- A multiply that accumulates leaves the pair as unread as it was. -/
theorem completes_of_accumulate (f : DWord → Word → Word → DWord) (he : exec i s = s.accumulate rs rt f)
    (hv : f (s.hi ++ s.lo) (s.srcRs rs) (s.srcRt rt) = BitVec.ofInt 64 ((s.hi ++ s.lo).toNat + n)) :
    Completes i s (fun t => t.hi ++ t.lo = BitVec.ofInt 64 ((s.hi ++ s.lo).toNat + n) ∧ t.pairFresh = s.pairFresh
      ∧ Advances s t ∧ KeepsAllBut [.hiLo] s t) := by
  obtain ⟨t, run, value, advances, frame⟩ := s.accumulate_next rs rt f
  have fresh : t.pairFresh = s.pairFresh := by cases run; simp
  exact ⟨t, he.trans run, value.trans hv, fresh, advances, frame⟩

/-- MUL writes a general register, and leaves any values in HI and LO (spec/44_muldiv.md R202, U4). -/
theorem completes_mul (s : State) (rs rt rd : Reg) : Completes (.mul rs rt rd) s (fun t =>
    TakesGpr s t rd (BitVec.ofInt 32 ((s.srcRs rs).toInt * (s.srcRt rt).toInt)) ∧ Advances s t
      ∧ KeepsAllBut [.gprs, .hiLo] s t) := by
  obtain ⟨takes, advances, frame⟩ := s.writeBack rd (s.srcRs rs * s.srcRt rt)
  refine ⟨_, rfl, mul_eq_ofInt (s.srcRs rs) _ ▸ takes, advances, ?_⟩
  apply keepsAllBut_of_fields <;> simp

/-- Settles O8: MULT and MULTU multiply, MADD to MSUBU accumulate, MUL writes a general register. -/
theorem multiplyResults : Obligations.MultiplyResults := by
  intro s rs rt rd a b c d
  simp only [List.forall_mem_cons, List.not_mem_nil, false_imp_iff, implies_true, and_true]
  refine ⟨⟨⟨decode_of_encode rfl rfl, ?mult⟩, ⟨decode_of_encode rfl rfl, ?multu⟩⟩, State.sources_spoilWindow,
    ⟨⟨decode_of_encode rfl rfl, ?madd⟩, ⟨decode_of_encode rfl rfl, ?maddu⟩, ⟨decode_of_encode rfl rfl, ?msub⟩,
      ⟨decode_of_encode rfl rfl, ?msubu⟩⟩, decode_of_encode rfl rfl, completes_mul s rs rt rd⟩
  case mult => exact completes_of_multiply signedProduct rfl (signedProduct_eq_ofInt c d)
  case multu => exact completes_of_multiply unsignedProduct rfl (unsignedProduct_eq_ofInt c d)
  case madd =>
    exact completes_of_accumulate (fun acc a b => acc + signedProduct a b) rfl
      (by rw [signedProduct_eq_ofInt, add_ofInt])
  case maddu =>
    exact completes_of_accumulate (fun acc a b => acc + unsignedProduct a b) rfl
      (by rw [unsignedProduct_eq_ofInt, add_ofInt])
  case msub =>
    exact completes_of_accumulate (fun acc a b => acc - signedProduct a b) rfl
      (by rw [signedProduct_eq_ofInt, sub_ofInt])
  case msubu =>
    exact completes_of_accumulate (fun acc a b => acc - unsignedProduct a b) rfl
      (by rw [unsignedProduct_eq_ofInt, sub_ofInt])

end

/-! ## Quotients and remainders as integers (spec/44_muldiv.md R207 to R209) -/

/-- Apart from -2^31 / -1 the quotient truncated toward zero is a signed 32-bit number. -/
theorem toInt_ofInt_tdiv {a b : Word} (h : ¬ (a = 0x80000000 ∧ b = 0xFFFFFFFF)) :
    (BitVec.ofInt 32 (a.toInt.tdiv b.toInt)).toInt = a.toInt.tdiv b.toInt := by
  rw [BitVec.toInt_ofInt, ← BitVec.toInt_sdiv]
  exact BitVec.toInt_sdiv_of_ne_or_ne a b (Decidable.not_and_iff_or_not.1 h)

/-- So is every remainder. -/
theorem toInt_ofInt_tmod (a b : Word) : (BitVec.ofInt 32 (a.toInt.tmod b.toInt)).toInt = a.toInt.tmod b.toInt := by
  rw [← BitVec.toInt_srem, BitVec.ofInt_toInt]

/-- The remainder of a truncating division is smaller than the divisor. -/
theorem abs_tmod_lt_abs (a : Int) {b : Int} (hb : b ≠ 0) : |a.tmod b| < |b| := by
  rw [Int.abs_eq_natAbs, Int.abs_eq_natAbs, Int.natAbs_tmod]
  exact Int.ofNat_lt.2 (Nat.mod_lt _ (Int.natAbs_pos.2 hb))

/-- A remainder of a truncating division has the dividend's sign. -/
theorem tmod_neg_iff {a b : Int} (h : a.tmod b ≠ 0) : a.tmod b < 0 ↔ a < 0 := by
  have sign : (a.tmod b).sign = a.sign := by
    rw [Int.sign_tmod, if_neg fun dvd => h (Int.tmod_eq_zero_of_dvd dvd)]
  rw [← Int.sign_eq_neg_one_iff_neg, sign, Int.sign_eq_neg_one_iff_neg]

/-- An unsigned quotient fits. -/
theorem toNat_ofNat_div (a b : Word) : (BitVec.ofNat 32 (a.toNat / b.toNat)).toNat = a.toNat / b.toNat := by
  rw [← BitVec.toNat_udiv, BitVec.ofNat_toNat, BitVec.setWidth_eq]

/-- So does an unsigned remainder. -/
theorem toNat_ofNat_mod (a b : Word) : (BitVec.ofNat 32 (a.toNat % b.toNat)).toNat = a.toNat % b.toNat := by
  rw [← BitVec.toNat_umod, BitVec.ofNat_toNat, BitVec.setWidth_eq]

/-! ## Divides -/

theorem exec_div (rs rt : Reg) (s : State) : exec (.div rs rt) s = s.divide rs rt
    (fun a b => BitVec.ofInt 32 (a.toInt.tdiv b.toInt)) (fun a b => BitVec.ofInt 32 (a.toInt.tmod b.toInt)) := rfl

theorem exec_divu (rs rt : Reg) (s : State) : exec (.divu rs rt) s = s.divide rs rt
    (fun a b => BitVec.ofNat 32 (a.toNat / b.toNat)) (fun a b => BitVec.ofNat 32 (a.toNat % b.toNat)) := rfl

section
variable {i : Instr} {s : State} {rs rt : Reg} {quot rem : Word → Word → Word}

/-- A divide completes, whatever its divisor. -/
theorem completes_of_divide (he : exec i s = s.divide rs rt quot rem) : Completes i s (fun t =>
    t.pairFresh = true ∧ KeepsGprsBut s t true true ∧ Advances s t ∧ KeepsAllBut [.gprs, .hiLo] s t) :=
  ⟨s.wrote true true _ _ true, he, s.wrote_ends ..⟩

/-- A divisor that is not zero gives LO the quotient and HI the remainder. -/
theorem divides_of_divide {a b : Word} (ha : (s.spoilWindow true true).srcRs rs = a)
    (hb : (s.spoilWindow true true).srcRt rt = b) (he : exec i s = s.divide rs rt quot rem) (nonzero : b ≠ 0) :
    Completes i s (fun t => (t.lo = quot a b ∧ t.hi = rem a b) ∧ t.pairFresh = true ∧ KeepsGprsBut s t true true
      ∧ Advances s t ∧ KeepsAllBut [.gprs, .hiLo] s t) := by
  subst ha hb
  exact ⟨s.wrote true true _ _ true, he, ⟨if_neg nonzero, if_neg nonzero⟩, s.wrote_ends ..⟩

end

/-- What holds of every state where an instruction ends may replace what is known of it. -/
theorem Completes.mono {i : Instr} {s : State} {P Q : State → Prop} (h : Completes i s P) (imp : ∀ t, P t → Q t) :
    Completes i s Q := by
  obtain ⟨t, run, holds⟩ := h
  exact ⟨t, run, imp t holds⟩

/-- Settles O9: HI and LO hold the integers' truncated quotient and remainder, or those of natural numbers. -/
theorem divideResults : Obligations.DivideResults := by
  intro s rs rt a b ends
  refine ⟨State.sources_spoilWindow, decode_of_encode rfl rfl, decode_of_encode rfl rfl,
    fun nonzero fits => ?div, fun ha hb => ?overflow, fun nonzero => ?divu, fun _ => ?byZero⟩
  case div =>
    refine (divides_of_divide rfl rfl (exec_div rs rt s) nonzero).mono fun t ⟨⟨lo, hi⟩, ended⟩ => ?_
    have nonzeroInt : b.toInt ≠ 0 := fun h => nonzero (BitVec.eq_of_toInt_eq h)
    rw [lo, hi, toInt_ofInt_tdiv fits, toInt_ofInt_tmod]
    exact ⟨(Int.tdiv_mul_add_tmod ..).symm, abs_tmod_lt_abs _ nonzeroInt, tmod_neg_iff, ended⟩
  case overflow =>
    refine (divides_of_divide ha hb (exec_div rs rt s) (by decide)).mono fun t ⟨⟨lo, hi⟩, ended⟩ => ?_
    exact ⟨lo.trans (by decide), hi.trans (by decide), ended⟩
  case divu =>
    refine (divides_of_divide rfl rfl (exec_divu rs rt s) nonzero).mono fun t ⟨⟨lo, hi⟩, ended⟩ => ?_
    have positive : 0 < b.toNat := Nat.pos_of_ne_zero fun h => nonzero (BitVec.eq_of_toNat_eq h)
    rw [lo, hi, toNat_ofNat_div, toNat_ofNat_mod]
    exact ⟨(Nat.div_add_mod' ..).symm, Nat.mod_lt _ positive, ended⟩
  case byZero =>
    simp only [List.forall_mem_cons, List.not_mem_nil, false_imp_iff, implies_true, and_true]
    exact ⟨completes_of_divide (exec_div rs rt s), completes_of_divide (exec_divu rs rt s)⟩

/-! ## Moves (spec/44_muldiv.md R210 to R213, R216) -/

/-- MFHI and MFLO read the pair's result. -/
theorem completes_of_moveFrom {i : Instr} {s : State} {rd : Reg} (fromHi : Bool)
    (he : exec i s = s.moveFrom fromHi rd) : Completes i s (fun t => TakesGpr s t rd (if fromHi then s.hi else s.lo)
      ∧ t.pairFresh = false ∧ Advances s t ∧ KeepsAllBut [.gprs] s t) := by
  obtain ⟨t, run, takes, advances, frame⟩ := s.moveFrom_next fromHi rd
  have read : t.pairFresh = false := by cases run; rfl
  exact ⟨t, he.trans run, takes, read, advances, frame⟩

/-- The half of the pair that MTHI or MTLO does not name stays, unless the pair holds one unread result. -/
theorem State.otherHalf_eq {s : State} {hi lo : Bool} {free v : Word} (h : s.pairFresh = false) :
    (if (s.spoilWindow hi lo).pairFresh then free else v) = v := by
  rw [State.spoilWindow_pairFresh, h, if_neg Bool.false_ne_true]

/-- Settles O10: MFHI and MFLO are moves from the pair, MTHI and MTLO are writers. -/
theorem hiLoMoves : Obligations.HiLoMoves := by
  intro s rs rd
  simp only [List.forall_mem_cons, List.not_mem_nil, false_imp_iff, implies_true, and_true]
  refine ⟨⟨⟨decode_of_encode rfl rfl, completes_of_moveFrom true rfl⟩,
      ⟨decode_of_encode rfl rfl, completes_of_moveFrom false rfl⟩⟩, decode_of_encode rfl rfl, decode_of_encode rfl rfl,
    fun clear => State.source_spoilWindow clear .delayRs (by simp),
    fun clear => State.source_spoilWindow clear .delayRs (by simp), ?mthi, ?mtlo⟩
  case mthi =>
    exact ⟨s.wrote true false _ _ false, rfl, rfl,
      fun read => (State.otherHalf_eq read).trans (by simp), s.wrote_ends ..⟩
  case mtlo =>
    exact ⟨s.wrote false true _ _ false, rfl, rfl,
      fun read => (State.otherHalf_eq read).trans (by simp), s.wrote_ends ..⟩

end Sys2Proof.Machine
end

section
/-! The write-after-read window of HI and LO (spec/44_muldiv.md R214): what opens it, what closes it, and how the step
of an MFHI or MFLO looks ahead. -/
namespace Sys2Proof.Machine

/-! ## Writers and bystanders -/

/-- The writers of HI and LO with these operands, and which of the two each writes. -/
def hiLoWriters (a b : Reg) : List (Instr × Bool × Bool) :=
  [(.mult a b, true, true), (.multu a b, true, true), (.div a b, true, true), (.divu a b, true, true),
    (.mthi a, true, false), (.mtlo a, false, true)]

/-- The instruction is a writer, and it writes HI (or LO) exactly if asked. -/
def WritesHalf (fromHi : Bool) (j : Instr) (it : Bool) : Prop :=
  ∃ a b, ∃ p ∈ hiLoWriters a b, p.1 = j ∧ (if fromHi then p.2.1 else p.2.2) = it

/-- SLL, ADDU, MADD or a likely branch: instructions without a window of their own. -/
def Bystander (j : Instr) : Prop :=
  ∃ (a b d : Reg) (sa : BitVec 5) (off : Half),
    j ∈ ([.sll b d sa, .addu a b d, .madd a b, .beql a b off, .bnel a b off] : List Instr)

/-- The list says of each writer what the look ahead takes it to write. -/
theorem windowOf_hiLoWriters {a b : Reg} : ∀ p ∈ hiLoWriters a b, windowOf p.1 = p.2 := by
  simp [hiLoWriters, windowOf]

/-- Every writer completes, and undoes the window of what the list says. -/
theorem exec_hiLoWriters (s : State) {a b : Reg} :
    ∀ p ∈ hiLoWriters a b, ∃ h l fresh, exec p.1 s = .next (s.wrote p.2.1 p.2.2 h l fresh) := by
  simp only [hiLoWriters, List.forall_mem_cons, List.not_mem_nil, false_imp_iff, implies_true, and_true]
  exact ⟨⟨_, _, _, rfl⟩, ⟨_, _, _, rfl⟩, ⟨_, _, _, rfl⟩, ⟨_, _, _, rfl⟩, ⟨_, _, _, rfl⟩, ⟨_, _, _, rfl⟩⟩

/-- In the look ahead a writer undoes the mark of the half it writes. -/
theorem WritesHalf.undoneBy {fromHi it : Bool} {j : Instr} (h : WritesHalf fromHi j it) :
    HiLoRead.undoneBy (windowOf j).1 (windowOf j).2 ⟨fromHi, 0⟩ = it := by
  obtain ⟨a, b, p, hp, rfl, writes⟩ := h
  rw [windowOf_hiLoWriters p hp]
  exact writes

/-- A bystander undoes no mark. -/
theorem Bystander.undoneBy {j : Instr} (h : Bystander j) (fromHi : Bool) :
    HiLoRead.undoneBy (windowOf j).1 (windowOf j).2 ⟨fromHi, 0⟩ = false := by
  obtain ⟨a, b, d, sa, off, hj⟩ := h
  simp only [List.mem_cons, List.not_mem_nil, or_false] at hj
  obtain rfl | rfl | rfl | rfl | rfl := hj <;> exact ite_self _

/-! ## The mark of the look ahead -/

/-- The state with the mark one instruction later. -/
def State.aged (s : State) (fromHi : Bool) : State := { s with hist1 := none, hist2 := some ⟨fromHi, 0⟩ }

/-- What follows the end of an instruction does not see whether the histories are marked. -/
theorem next_aged {s v : State} {fromHi : Bool} {l : List Reg} {plain marked : Result} (k : State → State)
    (blind : ∀ t : State, k (t.aged fromHi) = (k t).aged fromHi) (hp : plain = .next (k (s.retire l)))
    (hm : marked = .next (k ((s.marked fromHi).retire l))) (run : plain = .next v) :
    marked = .next (v.aged fromHi) := by
  obtain rfl : k (s.retire l) = v := Host.Outcome.next.inj (hp.symm.trans run)
  rw [hm, ← blind, State.retire_marked]
  rfl

theorem State.writeGpr_aged (s : State) (d : Reg) (x : Word) (fromHi : Bool) :
    (s.aged fromHi).writeGpr d x = (s.writeGpr d x).aged fromHi := by
  unfold State.writeGpr
  split <;> rfl

/-- A branch moves the mark on. -/
theorem State.branch_marked {s v : State} {likely taken : Bool} {off : Half} (fromHi : Bool)
    (run : s.branch likely taken off = .next v) :
    (s.marked fromHi).branch likely taken off = .next (v.aged fromHi) := by
  have slot : ¬ s.inDelaySlot = true := fun h => by simp [(s.branch_cases likely taken off).1 h] at run
  refine next_aged (l := []) (fun t => if taken then t.jumpTo (branchTarget s.pc off)
    else if likely then t.nullifySlot s.pc else t.fallThrough) (fun t => ?_) (if_neg slot) (if_neg slot) run
  cases taken <;> cases likely <;> rfl

/-- A bystander moves the mark on, and otherwise does what it does without the mark. -/
theorem Bystander.exec_marked {i : Instr} {s v : State} (h : Bystander i) (fromHi : Bool) (run : exec i s = .next v) :
    exec i (s.marked fromHi) = .next (v.aged fromHi) := by
  obtain ⟨a, b, d, sa, off, hi⟩ := h
  simp only [List.mem_cons, List.not_mem_nil, or_false] at hi
  obtain rfl | rfl | rfl | rfl | rfl := hi
  case inl => exact next_aged (·.writeGpr d _) (fun t => t.writeGpr_aged d _ fromHi) rfl rfl run
  case inr.inl => exact next_aged (·.writeGpr d _) (fun t => t.writeGpr_aged d _ fromHi) rfl rfl run
  case inr.inr.inl => exact next_aged (·.setHiLo _) (fun t => rfl) rfl rfl run
  case inr.inr.inr.inl => exact State.branch_marked fromHi run
  case inr.inr.inr.inr => exact State.branch_marked fromHi run

/-- The look ahead counts the instruction: it undoes no mark of this half, and moves the mark on where it completes. -/
def PassesMark (fromHi : Bool) (j : Instr) : Prop :=
  HiLoRead.undoneBy (windowOf j).1 (windowOf j).2 ⟨fromHi, 0⟩ = false
    ∧ ∀ s t : State, exec j (s.marked fromHi) = .next t → t.hist2.isSome = true

theorem Bystander.passesMark {j : Instr} (h : Bystander j) (fromHi : Bool) : PassesMark fromHi j := by
  refine ⟨h.undoneBy fromHi, fun s t run => ?_⟩
  have again : exec j (s.marked fromHi) = .next (t.aged fromHi) := h.exec_marked (s := s.marked fromHi) fromHi run
  have same : t = t.aged fromHi := Host.Outcome.next.inj (run.symm.trans again)
  rw [same]
  rfl

/-- A writer of the other half passes the mark. -/
theorem WritesHalf.passesMark {fromHi : Bool} {j : Instr} (h : WritesHalf fromHi j false) : PassesMark fromHi j := by
  refine ⟨h.undoneBy, fun s t run => ?_⟩
  obtain ⟨a, b, p, hp, rfl, other⟩ := h
  obtain ⟨h, l, fresh, wrote⟩ := exec_hiLoWriters (s.marked fromHi) p hp
  obtain rfl := Host.Outcome.next.inj (wrote.symm.trans run)
  have stays : HiLoRead.undoneBy p.2.1 p.2.2 ⟨fromHi, 0#5⟩ = false := other
  simp [State.wrote, State.marked, Option.filter_some, stays]

/-! ## The look ahead -/

/-- With no instruction left to look at, nothing is undone. -/
theorem State.undoneAhead_zero (fromHi : Bool) (n : Nat) (s : State) : s.undoneAhead fromHi n 0 = false := by
  cases n <;> rfl

section
variable {fromHi : Bool} {n k : Nat} {s u t : State} {i : Instr} (hb : s.begin = .run u) (hi : u.nextInstr = .ok i)
include hb hi

/-- A writer of the half ends the look ahead. -/
theorem State.undoneAhead_of_writes (h : WritesHalf fromHi i true) : s.undoneAhead fromHi (n + 1) (k + 1) = true := by
  rw [State.undoneAhead_run fromHi n k s u i hb hi, h.undoneBy, Bool.true_or]

/-- Past an instruction that moves the mark on, one instruction fewer is looked at. -/
theorem State.undoneAhead_of_run (run : exec i (u.marked fromHi) = .next t) (moved : t.hist2.isSome = true) :
    s.undoneAhead fromHi (n + 1) (k + 1)
      = (HiLoRead.undoneBy (windowOf i).1 (windowOf i).2 ⟨fromHi, 0⟩ || t.undoneAhead fromHi n k) := by
  rw [State.undoneAhead_run fromHi n k s u i hb hi, run]
  simp only [moved, if_true]

/-- The last instruction looked at undoes nothing if it passes the mark. -/
theorem State.undoneAhead_of_passes (h : PassesMark fromHi i) : s.undoneAhead fromHi (n + 1) 1 = false := by
  obtain ⟨keeps, moves⟩ := h
  cases run : exec i (u.marked fromHi) with
  | next t => rw [State.undoneAhead_of_run hb hi run (moves u t run), keeps, t.undoneAhead_zero, Bool.or_false]
  | fault f => rw [State.undoneAhead_run fromHi n 0 s u i hb hi, keeps, run, Bool.or_false]
  | refused r => rw [State.undoneAhead_run fromHi n 0 s u i hb hi, keeps, run, Bool.or_false]

end

/-- Past a bystander the look ahead goes on with the mark one instruction later. -/
theorem State.undoneAhead_of_bystander {fromHi : Bool} {n k : Nat} {s u v : State} {i : Instr} (hb : s.begin = .run u)
    (hi : u.nextInstr = .ok i) (h : Bystander i) (run : exec i u = .next v) :
    s.undoneAhead fromHi (n + 1) (k + 1) = (v.aged fromHi).undoneAhead fromHi n k := by
  rw [State.undoneAhead_of_run hb hi (h.exec_marked fromHi run) rfl, h.undoneBy, Bool.false_or]

/-! ## The histories after an instruction -/

/-- An MFHI or MFLO into a register other than 0 is remembered. -/
theorem remembers_of_moveFrom {i : Instr} {s : State} {rd : Reg} {fromHi : Bool} (nonzero : rd ≠ 0)
    (he : exec i s = s.moveFrom fromHi rd) : Completes i s (fun t => t.hist1 = some ⟨fromHi, rd⟩) :=
  ⟨_, he, if_neg nonzero⟩

/-- An instruction that overwrites no register leaves the entry as the older one. -/
theorem ages_of_nop {s : State} {e : HiLoRead} (he : s.hist1 = some e) :
    Completes .nop s (fun t => t.hist1 = none ∧ t.hist2 = some e) := by
  refine ⟨(s.retire [0]).writeGpr 0 _, rfl, by simp, ?_⟩
  rw [State.writeGpr_hist2, State.retire_hist2, he]
  exact if_neg fun ⟨mem, nonzero⟩ => nonzero (List.mem_singleton.1 mem)

/-- An instruction that overwrites the register of the entry forgets it. -/
theorem forgets_of_addu {s : State} {e : HiLoRead} (rs rt : Reg) (he : s.hist1 = some e) (nonzero : e.rd ≠ 0) :
    Completes (.addu rs rt e.rd) s (fun t => t.hist1 = none ∧ t.hist2 = none) := by
  refine ⟨(s.retire [e.rd]).writeGpr e.rd _, rfl, by simp, ?_⟩
  rw [State.writeGpr_hist2, State.retire_hist2, he]
  exact if_pos ⟨List.mem_singleton_self _, nonzero⟩

/-- Settles O11: what completes remembers or forgets the entry or undoes it, and the step of the MFHI or MFLO looks
ahead past bystanders to a writer. -/
theorem hiLoWindow : Obligations.HiLoWindow := by
  intro s rs rt rd writers
  refine ⟨fun nonzero => ⟨remembers_of_moveFrom nonzero rfl, remembers_of_moveFrom nonzero rfl⟩,
    fun e he => ⟨ages_of_nop he, forgets_of_addu rs rt he⟩, fun p hp => ?writer, fun e u i he hb hi => ?ahead⟩
  case writer =>
    obtain ⟨h, l, fresh, wrote⟩ := exec_hiLoWriters s p hp
    obtain ⟨-, kept, advances, frame⟩ := s.wrote_ends p.2.1 p.2.2 h l fresh
    refine ⟨_, wrote, kept, advances, frame, fun e he undone nonzero => ?_⟩
    rw [State.readGpr_wrote, State.spoilWindow_free s p.2.1 p.2.2 e he undone nonzero]
  case ahead =>
    intro writes other freed
    have settles : s.undoneAhead e.fromHi s.horizon 2 = true → s.settle = freed := s.settle_undone e he
    refine ⟨fun writer => settles (State.undoneAhead_of_writes hb hi writer), fun v w j hv hj =>
      ⟨fun bystander run => ?_, fun run moved writer => settles ?marked⟩⟩
    case marked =>
      exact (State.undoneAhead_of_run hb hi run moved).trans
        (by rw [State.undoneAhead_of_writes hv hj writer, Bool.or_true])
    have past : s.undoneAhead e.fromHi s.horizon 2 = (v.aged e.fromHi).undoneAhead e.fromHi (s.env.length + 15) 1 :=
      State.undoneAhead_of_bystander hb hi bystander run
    have begins : (v.aged e.fromHi).begin = .run (w.aged e.fromHi) := State.begin_hist v w _ _ hv
    refine ⟨fun writer => settles (past.trans (State.undoneAhead_of_writes begins hj writer)), fun passes => ?_⟩
    have passed : PassesMark e.fromHi j :=
      passes.elim (fun bystander => Bystander.passesMark bystander e.fromHi) WritesHalf.passesMark
    refine s.settle_eq fun e' he' => ?_
    obtain rfl : e = e' := Option.some.inj (he.symm.trans he')
    exact past.trans (State.undoneAhead_of_passes begins hj passed)

end Sys2Proof.Machine
end

section
/-! The branches without link, the linking branches and the jumps outside a delay slot (spec/45_branch_jump.md). -/
namespace Sys2Proof.Machine

/-! ## Conditions, on signed numbers (spec/45_branch_jump.md R225 to R232) -/

section
variable (s : State) (rs rt : Reg)

theorem State.isNeg_eq : s.isNeg rs = decide ((s.srcRs rs).toInt < 0) := rfl

theorem State.isNonPos_eq : s.isNonPos rs = decide ((s.srcRs rs).toInt ≤ 0) := rfl

theorem State.not_isEq_eq : (!s.isEq rs rt) = decide (s.srcRs rs ≠ s.srcRt rt) := decide_not.symm

theorem State.not_isNeg_eq : (!s.isNeg rs) = decide (0 ≤ (s.srcRs rs).toInt) := by
  rw [s.isNeg_eq, ← decide_not, decide_eq_decide, Int.not_lt]

theorem State.not_isNonPos_eq : (!s.isNonPos rs) = decide (0 < (s.srcRs rs).toInt) := by
  rw [s.isNonPos_eq, ← decide_not, decide_eq_decide, Int.not_le]

/-- GPR[0] equals itself in both source positions, so B is always taken (spec/45_branch_jump.md R241). -/
theorem State.isEq_zero : s.isEq 0 0 = true := by
  obtain ⟨rsZero, rtZero, -⟩ := (operandForms s).1 0 rfl
  rw [State.isEq, rsZero, rtZero, decide_eq_true rfl]

/-- GPR[0] is not negative, so BAL is always taken (spec/45_branch_jump.md R242). -/
theorem State.not_isNeg_zero : (!s.isNeg 0) = true := by
  obtain ⟨rsZero, -, -⟩ := (operandForms s).1 0 rfl
  rw [s.not_isNeg_eq, rsZero]
  rfl

end

/-! ## Outside a delay slot -/

/-- A frame that excepts the general registers only, and these the same: nothing changes. -/
theorem keepsAllBut_nil_of_gprs {s t : State} (frame : KeepsAllBut [.gprs] s t)
    (reads : ∀ r, t.readGpr r = s.readGpr r) : KeepsAllBut [] s t := by
  intro p _
  by_cases hp : p = .gprs
  · subst hp
    exact reads
  · exact frame p (by simpa using hp)

section
variable {i : Instr} {s : State} {likely taken holds : Bool} {off : Half} {target : Word}

/-- An instruction that is a branch goes where its condition says, and changes nothing (spec/45_branch_jump.md R220). -/
theorem completes_of_branch (outside : s.inDelaySlot = false) (he : exec i s = s.branch likely taken off)
    (cond : taken = holds) :
    Completes i s (fun t => AfterBranch s t likely holds (branchTarget s.pc off) ∧ KeepsAllBut [] s t) := by
  subst cond
  obtain ⟨t, run, frame, control⟩ := (s.branch_cases likely taken off).2 outside
  exact ⟨t, he.trans run, control, frame⟩

/-- A linking branch also puts the return address into r31, taken or not (spec/45_branch_jump.md R221). -/
theorem completes_of_branchLink {rs : Reg} (outside : s.inDelaySlot = false)
    (he : exec i s = s.branchLink rs likely taken off) (cond : taken = holds) (other : rs ≠ 31) :
    Completes i s (fun t => TakesGpr s t 31 (s.pc + 8)
      ∧ AfterBranch s t likely holds (branchTarget s.pc off) ∧ KeepsAllBut [.gprs] s t) := by
  subst cond
  obtain ⟨-, -, links⟩ := s.branchLink_cases rs likely taken off
  obtain ⟨t, run, takes, frame, control⟩ := links outside other
  exact ⟨t, he.trans run, takes, control, frame⟩

/-- A linking branch on r31 is refused (spec/45_branch_jump.md R221, log 18). -/
theorem refuses_of_branchLink {rs : Reg} (outside : s.inDelaySlot = false)
    (he : exec i s = s.branchLink rs likely taken off) (link : rs = 31) : Refuses i s .linkRegisterIsSource := by
  obtain ⟨-, refused, -⟩ := s.branchLink_cases rs likely taken off
  exact he.trans (refused outside link)

/-- A jump without link goes to its target, and changes nothing (spec/45_branch_jump.md R243, R245). -/
theorem completes_of_jump (outside : s.inDelaySlot = false) (he : exec i s = s.jump none target) :
    Completes i s (fun t => AfterBranch s t false true target ∧ KeepsAllBut [] s t) := by
  obtain ⟨t, run, reads, frame, control⟩ := (s.jump_cases none target).2 outside
  exact ⟨t, he.trans run, control, keepsAllBut_nil_of_gprs frame reads⟩

/-- A linking jump also puts the return address into its register (spec/45_branch_jump.md R244, R246). -/
theorem completes_of_jump_link {r : Reg} (outside : s.inDelaySlot = false)
    (he : exec i s = s.jump (some r) target) :
    Completes i s (fun t => TakesGpr s t r (s.pc + 8)
      ∧ AfterBranch s t false true target ∧ KeepsAllBut [.gprs] s t) := by
  obtain ⟨t, run, takes, frame, control⟩ := (s.jump_cases (some r) target).2 outside
  exact ⟨t, he.trans run, takes, control, frame⟩

end

/-- JALR is a linking jump, unless its two registers are one (spec/45_branch_jump.md R246). -/
theorem exec_jalr_of_ne {rs rd : Reg} (s : State) (differ : rs ≠ rd) :
    exec (.jalr rs rd) s = s.jump (some rd) (s.srcRs rs) := if_neg (by simp [differ])

/-- JALR with one register for both is refused (spec/45_branch_jump.md R246, log 18). -/
theorem refuses_jalr_same {rs rd : Reg} {s : State} (outside : s.inDelaySlot = false) (same : rs = rd) :
    Refuses (.jalr rs rd) s .linkRegisterIsSource := if_pos (by simp [same, outside])

/-! ## The obligations -/

/-- Settles O21: each is a branch on its condition; B and BEQ r0, r0 are branches on one that always holds. -/
theorem branchResults : Obligations.BranchResults := by
  intro s rs rt off outside a b
  simp only [List.forall_mem_cons, List.not_mem_nil, false_imp_iff, implies_true, and_true]
  have equal := s.isEq_zero
  refine ⟨⟨⟨decode_of_encode rfl rfl, ?beq⟩, ⟨decode_of_encode rfl rfl, ?bne⟩, ⟨decode_of_encode rfl rfl, ?blez⟩,
    ⟨decode_of_encode rfl rfl, ?bgtz⟩, ⟨decode_of_encode rfl rfl, ?bltz⟩, ⟨decode_of_encode rfl rfl, ?bgez⟩,
    ⟨decode_of_encode rfl rfl, ?beql⟩, ⟨decode_of_encode rfl rfl, ?bnel⟩, ⟨decode_of_encode rfl rfl, ?blezl⟩,
    ⟨decode_of_encode rfl rfl, ?bgtzl⟩, ⟨decode_of_encode rfl rfl, ?bltzl⟩, ⟨decode_of_encode rfl rfl, ?bgezl⟩⟩,
    decode_of_encode rfl rfl, completes_of_branch outside rfl equal, completes_of_branch outside rfl equal⟩
  case beq | beql => exact completes_of_branch outside rfl rfl
  case bne | bnel => exact completes_of_branch outside rfl (s.not_isEq_eq rs rt)
  case blez | blezl => exact completes_of_branch outside rfl (s.isNonPos_eq rs)
  case bgtz | bgtzl => exact completes_of_branch outside rfl (s.not_isNonPos_eq rs)
  case bltz | bltzl => exact completes_of_branch outside rfl (s.isNeg_eq rs)
  case bgez | bgezl => exact completes_of_branch outside rfl (s.not_isNeg_eq rs)

/-- Settles O22: the linking branches and BAL are branches that link in r31, J and JR jumps, JAL and JALR jumps that
link. -/
theorem linkAndJump : Obligations.LinkAndJump := by
  intro s rs rd off idx outside a
  simp only [List.forall_mem_cons, List.not_mem_nil, false_imp_iff, implies_true, and_true]
  have negative := s.isNeg_eq rs
  have nonNegative := s.not_isNeg_eq rs
  have zero := s.not_isNeg_zero
  refine ⟨⟨⟨decode_of_encode rfl rfl, ?bltzal, ?bltzalRefused⟩, ⟨decode_of_encode rfl rfl, ?bgezal, ?bgezalRefused⟩,
    ⟨decode_of_encode rfl rfl, ?bltzall, ?bltzallRefused⟩, ⟨decode_of_encode rfl rfl, ?bgezall, ?bgezallRefused⟩⟩,
    decode_of_encode rfl rfl, ⟨?bal, ?bgezalZero⟩, decode_of_encode rfl rfl, decode_of_encode rfl rfl,
    decode_of_encode rfl rfl, decode_of_encode rfl rfl, ?j, ?jal, ?jr, ?jalr, refuses_jalr_same outside⟩
  case bltzal | bltzall => exact completes_of_branchLink outside rfl negative
  case bgezal | bgezall => exact completes_of_branchLink outside rfl nonNegative
  case bltzalRefused | bgezalRefused | bltzallRefused | bgezallRefused => exact refuses_of_branchLink outside rfl
  case bal | bgezalZero => exact completes_of_branchLink outside rfl zero (by decide)
  case j | jr => exact completes_of_jump outside rfl
  case jal => exact completes_of_jump_link outside rfl
  case jalr => exact fun differ => completes_of_jump_link outside (exec_jalr_of_ne s differ)

end Sys2Proof.Machine
end


section
/-! The conditional traps, ERET, SYSCALL, BREAK and SYNC (spec/46_special.md). -/
namespace Sys2Proof.Machine

/-! ## Exceptions of an instruction's own -/

/-- With EXL set, every exception goes to the general vector (spec/60_exceptions.md R351). -/
theorem Exc.offset_exl (x : Exc) (iv : Bool) : x.offset true iv = 0x180 := rfl

/-- An instruction that raises an exception which names no address and no unit, at the general vector. -/
theorem completes_of_raise {i : Instr} {s : State} (x : Exc) (he : exec i s = .next (s.raise x))
    (noAddress : x.badVAddr = none) (noPage : x.badVpn2 = none) (noUnit : x.unit = none)
    (general : ∀ iv, x.offset false iv = 0x180) : Completes i s (fun t => EntersPlain s t x.code) := by
  have offset (exl iv : Bool) : x.offset exl iv = 0x180 := by
    cases exl
    · exact general iv
    · exact x.offset_exl iv
  exact ⟨_, he, s.raise_plain x noAddress noPage noUnit offset⟩

/-! ## Traps (spec/46_special.md R253) -/

/-- An instruction that is a trap on a comparison traps where the relation the comparison decides holds, and otherwise
does nothing. -/
theorem traps_of_trapIf {i : Instr} {s : State} {compared holds : Bool} (he : exec i s = s.trapIf compared)
    (decides : compared = holds) :
    (holds = true → Completes i s (fun t => EntersPlain s t 13))
      ∧ (holds = false → Completes i s (fun t => Advances s t ∧ KeepsAllBut [] s t)) := by
  subst decides
  obtain ⟨t, run, ends⟩ := s.trapIf_next compared
  refine ⟨fun trapped => ⟨t, he.trans run, ?_⟩, fun passed => ⟨t, he.trans run, ?_⟩⟩
  · rwa [if_pos trapped] at ends
  · rwa [passed, if_neg Bool.false_ne_true] at ends

/-! ## The return from an exception (spec/46_special.md R266) -/

theorem putBit_erl_false (w : Word) : putBit w 2 false = w &&& 0xFFFFFFFB := rfl

theorem putBit_exl_false (w : Word) : putBit w 1 false = w &&& 0xFFFFFFFD := rfl

/-- With ERL set, the return is to ErrorEPC and clears ERL. -/
theorem State.returnFromException_of_erl {s : State} (erl : s.cp0.erl = true) :
    s.returnFromException.pc = s.cp0.errorEpc
      ∧ s.returnFromException.cp0 = { s.cp0 with status := s.cp0.status &&& 0xFFFFFFFB } := by
  simp only [State.returnFromException, erl, if_true, putBit_erl_false, and_self]

/-- With ERL clear, the return is to EPC and clears EXL. -/
theorem State.returnFromException_of_not_erl {s : State} (erl : s.cp0.erl = false) :
    s.returnFromException.pc = s.cp0.epc
      ∧ s.returnFromException.cp0 = { s.cp0 with status := s.cp0.status &&& 0xFFFFFFFD } := by
  simp only [State.returnFromException, erl, Bool.false_eq_true, if_false, putBit_exl_false, and_self]

/-- A return from an exception after an instruction that writes nothing leaves all but LLbit and CP0. -/
theorem State.returnFromException_frame (s : State) :
    KeepsLink s (s.retire []).returnFromException
      ∧ KeepsAllBut [.link, .cp0] s (s.retire []).returnFromException := by
  refine ⟨by simp, ?_⟩
  apply keepsAllBut_of_fields <;> simp

/-- ERET in a delay slot is refused (spec/10_state.md R29, log 16). -/
theorem refuses_eret_inSlot {s : State} (inSlot : s.inDelaySlot = true) : Refuses .eret s .controlInDelaySlot :=
  if_pos inSlot

/-- Outside a delay slot, ERET first tests that coprocessor 0 is usable (spec/60_exceptions.md R348). -/
theorem exec_eret_outside {s : State} (outside : s.inDelaySlot = false) :
    exec .eret s = s.withCp0 (.next (s.retire []).returnFromException) := if_neg (by simp [outside])

/-! ## The obligations -/

/-- Settles O25: each is a trap on a comparison that decides the stated relation. -/
theorem trapResults : Obligations.TrapResults := by
  intro s rs rt code imm a b x
  simp only [List.forall_mem_cons, List.not_mem_nil, false_imp_iff, implies_true, and_true]
  refine ⟨⟨decode_of_encode rfl rfl, ?tge⟩, ⟨decode_of_encode rfl rfl, ?tgeu⟩, ⟨decode_of_encode rfl rfl, ?tlt⟩,
    ⟨decode_of_encode rfl rfl, ?tltu⟩, ⟨decode_of_encode rfl rfl, ?teq⟩, ⟨decode_of_encode rfl rfl, ?tne⟩,
    ⟨decode_of_encode rfl rfl, ?tgei⟩, ⟨decode_of_encode rfl rfl, ?tgeiu⟩, ⟨decode_of_encode rfl rfl, ?tlti⟩,
    ⟨decode_of_encode rfl rfl, ?tltiu⟩, ⟨decode_of_encode rfl rfl, ?teqi⟩, ⟨decode_of_encode rfl rfl, ?tnei⟩⟩
  case tge | tgei => exact traps_of_trapIf rfl BitVec.sle_eq_decide
  case tgeu | tgeiu => exact traps_of_trapIf rfl BitVec.ule_eq_decide
  case tlt | tlti => exact traps_of_trapIf rfl BitVec.slt_eq_decide
  case tltu | tltiu => exact traps_of_trapIf rfl BitVec.ult_eq_decide
  case teq | tne | teqi | tnei => exact traps_of_trapIf rfl rfl

/-- Settles O26: a slot and an unusable coprocessor are checked in this order, and what remains is the return. -/
theorem eretResults : Obligations.EretResults := by
  intro s
  refine ⟨decode_of_encode rfl rfl, refuses_eret_inSlot, fun outside unusable => ?unusable,
    fun outside usable => ⟨_, exec_eret outside usable, ?returns⟩⟩
  case unusable =>
    obtain ⟨t, run, enters⟩ := s.withCp0_unusable (.next (s.retire []).returnFromException) unusable
    exact ⟨t, (exec_eret_outside outside).trans run, enters⟩
  case returns =>
    obtain ⟨link, frame⟩ := s.returnFromException_frame
    have cp0 : (s.retire []).cp0 = s.cp0 := s.retire_cp0 []
    have toErrorEpc := (s.retire []).returnFromException_of_erl
    have toEpc := (s.retire []).returnFromException_of_not_erl
    rw [cp0] at toErrorEpc toEpc
    exact ⟨toErrorEpc, toEpc, rfl, rfl, s.retire_loadPending [], rfl, link, frame⟩

/-- Settles O24: SYSCALL and BREAK raise their exceptions whatever the code, and SYNC passes by. -/
theorem systemCallBreakSync : Obligations.SystemCallBreakSync := by
  intro s code stype
  simp only [List.forall_mem_cons, List.not_mem_nil, false_imp_iff, implies_true, and_true]
  refine ⟨⟨⟨decode_of_encode rfl rfl, ?syscall⟩, ⟨decode_of_encode rfl rfl, ?brk⟩⟩, decode_of_encode rfl rfl, ?sync⟩
  case syscall => exact completes_of_raise .systemCall rfl rfl rfl rfl fun _ => rfl
  case brk => exact completes_of_raise .breakpoint rfl rfl rfl rfl fun _ => rfl
  case sync => exact ⟨_, rfl, s.passBy⟩

end Sys2Proof.Machine
end

section
/-! The rules of coprocessor 0 (spec/47_cp0.md): the masks of its registers, the draw of Random, and what its moves and
WAIT do where the coprocessor is usable. -/
namespace Sys2Proof.Machine

/-! ## Masks -/

/-- A word whose bits outside a mask are 0 reads the same through the mask. -/
theorem and_mask_eq_self {v m : Word} (h : v &&& ~~~m = 0) : v &&& m = v := by
  refine BitVec.eq_of_getLsbD_eq fun i hi => ?_
  have bit : (v.getLsbD i && !m.getLsbD i) = false := by
    simpa [hi] using congrArg (BitVec.getLsbD · i) h
  rw [BitVec.getLsbD_and]
  cases hm : m.getLsbD i with
  | true => simp
  | false => simpa [hm] using bit.symm

theorem blend_eq_or (m new old : Word) : blend m new old = (old &&& ~~~m) ||| (new &&& m) := BitVec.or_comm ..

theorem setWidth_16_32 (x : BitVec 16) : x.setWidth 32 = 0#16 ++ x := BitVec.setWidth_eq_append (by decide)

theorem getLsbD_ofNat_two_pow_sub_one (n i : Nat) :
    (BitVec.ofNat 32 (2 ^ n - 1)).getLsbD i = decide (i < 32 ∧ i < n) := by
  rw [BitVec.getLsbD_ofNat, Nat.testBit_two_pow_sub_one, Bool.decide_and]

section
variable (s : State)

/-- EntryLo has the six bits of G, V, D and C, and PFN as far as PSIZE goes, below bit 30 (spec/10_state.md R41). -/
theorem State.getLsbD_entryLoMask (i : Nat) :
    s.entryLoMask.getLsbD i = decide (i < s.cfg.psize - 12 + 6 ∧ i < 30) := by
  have fields : (2 ^ (s.cfg.psize - 12) - 1) * 64 + 63 = 2 ^ (s.cfg.psize - 12 + 6) - 1 := by
    have := Nat.two_pow_pos (s.cfg.psize - 12)
    rw [Nat.pow_add]
    omega
  have bound : (0x3FFFFFFF : Word) = BitVec.ofNat 32 (2 ^ 30 - 1) := rfl
  rw [State.entryLoMask, fields, bound, BitVec.getLsbD_and, getLsbD_ofNat_two_pow_sub_one,
    getLsbD_ofNat_two_pow_sub_one, ← Bool.decide_and, decide_eq_decide]
  omega

/-! ## The width of an index (spec/10_state.md R39) -/

/-- No narrower index holds every entry's number. -/
theorem State.two_pow_pred_indexBits_lt (h : s.indexBits ≠ 0) : 2 ^ (s.indexBits - 1) < s.tlbEntries := by
  have several : ¬ s.tlbEntries ≤ 1 := fun few => h (if_pos few)
  have bits : s.indexBits - 1 = Nat.log2 (s.tlbEntries - 1) := by
    rw [State.indexBits, if_neg several, Nat.add_sub_cancel]
  have := Nat.log2_self_le (n := s.tlbEntries - 1) (by omega)
  rw [bits]
  omega

theorem State.toNat_indexMask (h : s.tlbEntries ≤ 64) : s.indexMask.toNat + 1 = 2 ^ s.indexBits := by
  have width : s.indexBits ≤ 6 := by
    by_contra wide
    have narrow := s.two_pow_pred_indexBits_lt (by omega)
    have := Nat.pow_le_pow_right (n := 2) (by omega) (show 6 ≤ s.indexBits - 1 by omega)
    omega
  have small := Nat.pow_le_pow_right (n := 2) (by omega) width
  have := Nat.two_pow_pos s.indexBits
  rw [State.indexMask, BitVec.toNat_ofNat, Nat.mod_eq_of_lt (by omega)]
  omega

/-! ## Random (spec/10_state.md R40) -/

/-- Where Wired names an entry, the draw is not below it. -/
theorem State.wired_le_randomIndex (h : (s.cp0.wired &&& s.indexMask).toNat < s.tlbEntries) :
    (s.cp0.wired &&& s.indexMask).toNat ≤ s.randomIndex := by
  simp only [State.randomIndex, if_pos h]
  exact Nat.le_add_right ..

end

/-- The draw as the word Random holds: the number of an entry, and not below Wired where Wired names one. -/
theorem State.Inv.randomIndex_word {s : State} (h : s.Inv) :
    (BitVec.ofNat 32 s.randomIndex).toNat = s.randomIndex
      ∧ (s.cp0.wired.toNat < s.tlbEntries → s.cp0.wired.toNat ≤ s.randomIndex) := by
  have entry := h.randomIndex_lt
  have entries := h.entries.2
  have wired := s.wired_le_randomIndex
  rw [and_mask_eq_self h.wired] at wired
  exact ⟨by rw [BitVec.toNat_ofNat, Nat.mod_eq_of_lt (by omega)], wired⟩

/-! ## What replaces CP0 registers alone -/

/-- An instruction that writes nothing else leaves the rest. -/
theorem State.passBy_withCp0 (s : State) (c : Cp0) :
    Advances s { s.retire [] with cp0 := c } ∧ KeepsAllBut [.cp0] s { s.retire [] with cp0 := c } := by
  refine ⟨by simp [Advances], ?_⟩
  apply keepsAllBut_of_fields <;> simp

/-! ## MFC0 (spec/47_cp0.md R270) -/

/-- The state after a value has been moved into rt with a load delay, and the CP0 registers are c. -/
def State.movedFromCp0 (s : State) (rt : Reg) (v : Word) (c : Cp0) : State :=
  { (s.retire [rt]).writeGpr rt v with loadPending := some rt, cp0 := c }

theorem State.movedFromCp0_spec (s : State) (rt : Reg) (v : Word) (c : Cp0) :
    TakesGpr s (s.movedFromCp0 rt v c) rt v ∧ (s.movedFromCp0 rt v c).cp0 = c
      ∧ AdvancesLoading s (s.movedFromCp0 rt v c) rt ∧ KeepsAllBut [.gprs, .cp0] s (s.movedFromCp0 rt v c) := by
  obtain ⟨takes, -, -⟩ := s.writeBack rt v
  refine ⟨takes, rfl, by simp [AdvancesLoading, State.movedFromCp0], ?_⟩
  apply keepsAllBut_of_fields <;> simp [State.movedFromCp0]

section
variable {s : State} (usable : s.cp0Usable = true)
include usable

theorem exec_mfc0_usable (rt rd : Reg) :
    exec (.mfc0 rt rd) s = .next (s.movedFromCp0 rt ((s.readCp0 rd).getD (s.freeWord .cp0Absent))
      (if rd = 1 then { s.cp0 with random := BitVec.ofNat 32 s.randomIndex } else s.cp0)) :=
  s.withCp0_usable _ usable

/-- MFC0 of any register but Random leaves every CP0 register. -/
theorem completes_mfc0 (rt : Reg) {rd : Reg} {v : Word} (other : rd ≠ 1)
    (reads : (s.readCp0 rd).getD (s.freeWord .cp0Absent) = v) :
    Completes (.mfc0 rt rd) s (fun t => TakesGpr s t rt v ∧ AdvancesLoading s t rt ∧ KeepsAllBut [.gprs] s t) := by
  have run := exec_mfc0_usable usable rt rd
  rw [reads, if_neg other] at run
  obtain ⟨takes, -, advances, -⟩ := s.movedFromCp0_spec rt v s.cp0
  refine ⟨_, run, takes, advances, ?_⟩
  apply keepsAllBut_of_fields <;> simp [State.movedFromCp0]

/-! ## MTC0 (spec/47_cp0.md R271) -/

/-- MTC0 where the register takes the value. -/
theorem completes_mtc0 {rt rd : Reg} {c : Cp0} (mode : rd = 12 → (s.srcRt rt).getLsbD 3 = false)
    (writes : s.writeCp0 rd (s.srcRt rt) = some c) :
    Completes (.mtc0 rt rd) s (fun t => t.cp0 = c ∧ Advances s t ∧ KeepsAllBut [.cp0] s t) := by
  have accepted : ¬ (rd = 12 && (s.srcRt rt).getLsbD 3) = true := by simpa using mode
  have run : exec (.mtc0 rt rd) s = .next { s.retire [] with cp0 := c } :=
    (s.withCp0_usable _ usable).trans ((if_neg accepted).trans (by rw [writes]))
  exact ⟨_, run, rfl, s.passBy_withCp0 c⟩

/-- MTC0 to a register that does not exist is refused (log 19, U9). -/
theorem refuses_mtc0_absent {rt rd : Reg} (other : rd ≠ 12) (absent : s.writeCp0 rd (s.srcRt rt) = none) :
    Refuses (.mtc0 rt rd) s .cp0RegisterAbsent :=
  (s.withCp0_usable _ usable).trans ((if_neg (by simpa using fun e => absurd e other)).trans (by rw [absent]))

/-- MTC0 of a reserved mode to Status is refused (spec/60_exceptions.md R365, log 19). -/
theorem refuses_mtc0_mode {rt : Reg} (reserved : (s.srcRt rt).getLsbD 3 = true) :
    Refuses (.mtc0 rt 12) s .statusModeReserved :=
  (s.withCp0_usable _ usable).trans (if_pos (by simp [reserved]))

/-! ## WAIT (spec/47_cp0.md R277) -/

theorem exec_wait_usable (outside : s.inDelaySlot = false) (code : BitVec 19) :
    exec (.wait code) s = .next { s.retire [] with waiting := true } :=
  (if_neg (by simp [outside])).trans (s.withCp0_usable _ usable)

end

/-- The registers that no option gives a place to store into (spec/47_cp0.md R272). -/
theorem State.writeCp0_unnamed (s : State) {rd : Reg} (v : Word)
    (h : rd.toNat ∈ [4, 7, 17, 18, 19, 20, 21, 22, 23, 24, 25, 26, 27, 28, 29, 31]) : s.writeCp0 rd v = none := by
  unfold State.writeCp0
  split
  case h_17 => rfl
  all_goals
    next named =>
      rw [named] at h
      exact absurd h (by decide)

/-- Count and Compare belong to the timer (spec/60_exceptions.md R368). -/
theorem State.writeCp0_timer (s : State) {rd : Reg} (v : Word) (h : rd.toNat ∈ [9, 11])
    (absent : s.cfg.hasTimer = false) : s.writeCp0 rd v = none := by
  have named : rd.toNat = 9 ∨ rd.toNat = 11 := by simpa using h
  unfold State.writeCp0
  rcases named with count | compare
  · rw [count, absent]; rfl
  · rw [compare, absent]; rfl

/-! ## A step of a core that WAIT has stopped (spec/60_exceptions.md R364) -/

/-- It goes on waiting while no line is unmasked. -/
theorem State.beginSampled_waiting {s : State} (stopped : s.waiting = true) (quiet : s.cp0.pending = false) :
    s.beginSampled = .done s := by
  simp [State.beginSampled, stopped, quiet]

/-- A line is unmasked, but no interrupt is taken: it runs on. -/
theorem State.beginSampled_wakes {s : State} (line : s.cp0.pending = true) (untaken : s.cp0.interruptTaken = false) :
    s.beginSampled = .run { s with waiting := false } := by
  simp [State.beginSampled, line, untaken]

@[simp] theorem State.sample_npc (s : State) : s.sample.npc = s.npc := by
  obtain ⟨m, b, c, h⟩ := s.sample_shape; rw [h]

/-! ## The obligations -/

/-- Settles O27: in the model's form the read masks of the registers change nothing, and the draw of Random is in its
range. -/
theorem cp0Reads : Obligations.Cp0Reads := by
  intro s rt rd form usable
  have plain {d : Reg} {v : Word} (other : d ≠ 1) (reads : (s.readCp0 d).getD (s.freeWord .cp0Absent) = v) :=
    completes_mfc0 usable rt other reads
  simp only [List.forall_mem_cons, List.not_mem_nil, false_imp_iff, implies_true, and_true]
  refine ⟨decode_of_encode rfl rfl, ⟨?index, ?lo0, ?lo1, ?pageMask, ?wired, ?badVAddr, ?entryHi, ?status, ?cause, ?epc,
    ?prid, ?config, ?errorEpc⟩, fun timer => ⟨?count, ?compare⟩, ?random, fun other => ?any, ?width⟩
  case index => exact plain (by decide) (and_mask_eq_self form.index)
  case lo0 => exact plain (by decide) (and_mask_eq_self form.entryLo0)
  case lo1 => exact plain (by decide) (and_mask_eq_self form.entryLo1)
  case pageMask => exact plain (by decide) (and_mask_eq_self form.pageMask)
  case wired => exact plain (by decide) (and_mask_eq_self form.wired)
  case entryHi => exact plain (by decide) (and_mask_eq_self form.entryHi)
  case status => exact plain (by decide) (and_mask_eq_self form.status)
  case cause => exact plain (by decide) (and_mask_eq_self form.cause)
  case badVAddr | epc | config | errorEpc => exact plain (by decide) rfl
  case prid => exact plain (by decide) (setWidth_16_32 _)
  case count | compare => exact plain (by decide) (congrArg (Option.getD · _) (if_pos timer))
  case random =>
    obtain ⟨word, wired⟩ := form.randomIndex_word
    obtain ⟨takes, cp0, advances, frame⟩ := s.movedFromCp0_spec rt (BitVec.ofNat 32 s.randomIndex)
      { s.cp0 with random := BitVec.ofNat 32 s.randomIndex }
    refine ⟨_, exec_mfc0_usable usable rt 1, BitVec.ofNat 32 s.randomIndex, ?_, ?_, takes, cp0, advances, frame⟩
    · rw [word]; exact form.randomIndex_lt
    · rw [word]; exact wired
  case any => exact (completes_mfc0 usable rt other rfl).mono fun t ⟨takes, rest⟩ => ⟨⟨_, takes⟩, rest⟩
  case width =>
    exact ⟨s.indexBits, s.toNat_indexMask form.entries.2, s.tlbEntries_le, s.two_pow_pred_indexBits_lt⟩

/-- Settles O28: each register takes what the table of R272 writes, and the numbers outside the table are refused. -/
theorem cp0Writes : Obligations.Cp0Writes := by
  intro s rt rd usable v takes
  have plain {d : Reg} {c : Cp0} (other : d ≠ 12) (writes : s.writeCp0 d v = some c) : takes d c :=
    completes_mtc0 usable (fun e => absurd e other) writes
  simp only [List.forall_mem_cons, List.not_mem_nil, false_imp_iff, implies_true, and_true]
  refine ⟨decode_of_encode rfl rfl, ⟨?index, ?random, ?lo0, ?lo1, ?pageMask, ?wired, ?badVAddr, ?entryHi, ?cause, ?epc,
    ?prid, ?config, ?errorEpc⟩, fun mode => completes_mtc0 usable (fun _ => mode) rfl, refuses_mtc0_mode usable,
    fun timer => ⟨?count, ?compare⟩, ?absent, fun low high j hj => ?mask⟩
  case index => exact plain (by decide) (congrArg (fun w => some ({ s.cp0 with index := w } : Cp0)) (blend_eq_or ..))
  case cause => exact plain (by decide) (congrArg (fun w => some ({ s.cp0 with cause := w } : Cp0)) (blend_eq_or ..))
  case config => exact plain (by decide) (congrArg (fun w => some ({ s.cp0 with config := w } : Cp0)) (blend_eq_or ..))
  case random | lo0 | lo1 | pageMask | wired | badVAddr | entryHi | epc | prid | errorEpc =>
    exact plain (by decide) rfl
  case count | compare => exact plain (by decide) (if_pos timer)
  case absent =>
    rintro (unnamed | ⟨named, timer⟩)
    · exact refuses_mtc0_absent usable (by rintro rfl; revert unnamed; decide) (s.writeCp0_unnamed _ unnamed)
    · exact refuses_mtc0_absent usable (by rintro rfl; revert named; decide) (s.writeCp0_timer _ named timer)
  case mask =>
    rw [s.getLsbD_entryLoMask, decide_eq_decide]
    omega

/-- Settles O30: WAIT sets the flag, and a step of a stopped core is decided by the sampled lines. -/
theorem waitResults : Obligations.WaitResults := by
  intro s code
  refine ⟨decode_of_encode rfl rfl, fun outside usable => ⟨_, exec_wait_usable usable outside code, ?waits⟩,
    fun stopped event => ⟨fun quiet => ⟨?stays, s.sample_pc, s.sample_npc, by rw [s.sample_waiting, stopped]⟩,
      fun line untaken => ?wakes⟩⟩
  case waits =>
    refine ⟨rfl, by simp, by simp, by simp, by simp [Advances], ?_⟩
    apply keepsAllBut_of_fields <;> simp
  case stays =>
    have masked : s.sample.cp0.pending = false := decide_eq_false (not_not_intro quiet)
    exact step_of_done ((s.begin_quiet event).trans
      (State.beginSampled_waiting (by rw [s.sample_waiting, stopped]) masked))
  case wakes =>
    exact step_of_run ((s.begin_quiet event).trans (State.beginSampled_wakes (decide_eq_true line) untaken))

end Sys2Proof.Machine
end

section
/-! The TLB instructions (spec/47_cp0.md R273 to R276): the entry that the registers describe, the registers that
describe an entry, and the entries that match. -/
namespace Sys2Proof.Machine

/-! ## The entry of TLBWI and TLBWR -/

/-- In the model's form the registers' pages need no mask. -/
theorem State.Inv.entryFromRegs_eq {s : State} (h : s.Inv) :
    s.entryFromRegs = { s.entryFromRegs with even := pageOfLo s.cp0.entryLo0, odd := pageOfLo s.cp0.entryLo1 } := by
  simp only [State.entryFromRegs, and_mask_eq_self h.entryLo0, and_mask_eq_self h.entryLo1]

/-! ## The registers of TLBR -/

/-- The word EntryLo of a page, bit by bit (spec/10_state.md R41). -/
theorem getLsbD_loOfPage (p : TlbPage) (g : Bool) (j : Nat) :
    (loOfPage p g).getLsbD j =
      if j = 0 then g else if j = 1 then p.v else if j = 2 then p.d
      else if j < 6 then p.c.getLsbD (j - 3) else p.pfn.getLsbD (j - 6) := by
  show BitVec.getLsbD (w := 2 + 24 + 3 + 1 + 1 + 1)
    (0#2 ++ p.pfn ++ p.c ++ BitVec.ofBool p.d ++ BitVec.ofBool p.v ++ BitVec.ofBool g) j = _
  simp only [BitVec.getLsbD_append]
  match j with
  | 0 | 1 | 2 => simp
  | j + 3 =>
    by_cases cache : j < 3
    · simp [cache, show j + 3 < 6 by omega]
    · have inside : p.pfn.getLsbD (j - 3) = true → j - 3 < 24 := BitVec.lt_of_getLsbD
      simpa [cache, show ¬ j + 3 < 6 by omega] using inside

/-- Outside the mask a field reads as it is. -/
theorem getLsbD_underMask {n : Nat} {mask : BitVec 16} {j : Nat} (v draw : BitVec n) (hj : mask.getLsbD j = false) :
    (underMask n mask v draw).getLsbD j = v.getLsbD j := by
  by_cases inside : j < n
  · simp [underMask, hj, inside]
  · rw [BitVec.getLsbD_of_ge _ _ (by omega), BitVec.getLsbD_of_ge _ _ (by omega)]

/-- The word w shows this page of an entry with this mask: its attributes, and the bits of its frame number that the
address has and the mask does not hide (spec/47_cp0.md R273). -/
def ShowsPage (psize : Nat) (mask : BitVec 16) (p : TlbPage) (g : Bool) (w : Word) : Prop :=
  w.extractLsb' 3 3 = p.c ∧ w.getLsbD 2 = p.d ∧ w.getLsbD 1 = p.v ∧ w.getLsbD 0 = g ∧ w.extractLsb' 30 2 = 0
    ∧ ∀ j, j < psize - 12 → j < 24 → mask.getLsbD j = false → w.getLsbD (6 + j) = p.pfn.getLsbD j

theorem State.showsPage_pageRead (s : State) (mask : BitVec 16) (site : DrawSite) (p : TlbPage) (g : Bool) :
    ShowsPage s.cfg.psize mask p g (loOfPage (s.pageRead mask site p) g &&& s.entryLoMask) := by
  have bit (j : Nat) (field : j < s.cfg.psize - 12 + 6 ∧ j < 30) :
      (loOfPage (s.pageRead mask site p) g &&& s.entryLoMask).getLsbD j
        = (loOfPage (s.pageRead mask site p) g).getLsbD j := by
    rw [BitVec.getLsbD_and, s.getLsbD_entryLoMask, decide_eq_true field, Bool.and_true]
  refine ⟨?cache, ?dirty, ?valid, ?global, ?zeros, fun j known inside shown => ?frame⟩
  case cache =>
    refine BitVec.eq_of_getLsbD_eq fun j hj => ?_
    rw [BitVec.getLsbD_extractLsb', decide_eq_true hj, Bool.true_and, bit _ (by omega), getLsbD_loOfPage,
      if_neg (by omega), if_neg (by omega), if_neg (by omega), if_pos (by omega), Nat.add_sub_cancel_left]
    rfl
  case dirty => rw [bit _ (by omega)]; exact getLsbD_loOfPage ..
  case valid => rw [bit _ (by omega)]; exact getLsbD_loOfPage ..
  case global => rw [bit _ (by omega)]; exact getLsbD_loOfPage ..
  case zeros =>
    refine BitVec.eq_of_getLsbD_eq fun j hj => ?_
    have above : s.entryLoMask.getLsbD (30 + j) = false := by
      rw [s.getLsbD_entryLoMask]
      exact decide_eq_false (by omega)
    rw [BitVec.getLsbD_extractLsb', BitVec.getLsbD_and, above, Bool.and_false, Bool.and_false]
    exact BitVec.getLsbD_zero.symm
  case frame =>
    rw [bit _ (by omega), getLsbD_loOfPage, if_neg (by omega), if_neg (by omega), if_neg (by omega),
      if_neg (by omega), Nat.add_sub_cancel_left]
    exact getLsbD_underMask _ _ shown

/-- PageMask of an entry (spec/10_state.md R42). -/
theorem pageMask_eq_append (m : BitVec 16) : m.setWidth 32 <<< 13 = 0#3 ++ m ++ 0#13 := by
  refine BitVec.eq_of_getLsbD_eq fun j hj => ?_
  show _ = BitVec.getLsbD (w := 3 + 16 + 13) (0#3 ++ m ++ 0#13) j
  simp only [BitVec.getLsbD_append, BitVec.getLsbD_shiftLeft]
  by_cases offset : j < 13
  · simp [offset]
  · by_cases mask : j - 13 < 16
    · simp [offset, hj, mask, show j - 13 < 32 by omega]
    · simp [offset, hj, mask, BitVec.getLsbD_of_ge m (j - 13) (by omega)]

/-- EntryHi of an entry, field by field (spec/10_state.md R43). -/
theorem entryHi_fields (v : BitVec 19) (a : BitVec 8) :
    (v ++ 0#5 ++ a : Word).extractLsb' 0 8 = a ∧ (v ++ 0#5 ++ a : Word).extractLsb' 8 5 = 0
      ∧ ∀ j, (v ++ 0#5 ++ a : Word).getLsbD (13 + j) = v.getLsbD j := by
  refine ⟨?asid, ?zeros, fun j => ?vpn2⟩
  case asid =>
    show BitVec.extractLsb' (n := 19 + 5 + 8) 0 8 (v ++ 0#5 ++ a) = a
    simp (disch := decide) only [extract_append_low, extract_whole]
  case zeros =>
    show BitVec.extractLsb' (n := 19 + 5 + 8) 8 5 (v ++ 0#5 ++ a) = 0
    simp (disch := decide) only [extract_append_high, extract_append_low, extract_whole, Nat.reduceSub]
    rfl
  case vpn2 =>
    show BitVec.getLsbD (w := 19 + 5 + 8) (v ++ 0#5 ++ a) (13 + j) = v.getLsbD j
    rw [BitVec.getLsbD_append, if_neg (by omega), BitVec.getLsbD_append, if_neg (by omega),
      show 13 + j - 8 - 5 = j by omega]

/-! ## The matches of TLBP -/

section
variable {vpn2 : BitVec 19} {asid : BitVec 8}

/-- The numbers found are those of the entries that match. -/
theorem mem_probeFrom {l : List TlbEntry} {i k : Nat} :
    k ∈ probeFrom vpn2 asid l i ↔ ∃ n, k = i + n ∧ ∃ e, l[n]? = some e ∧ e.hits vpn2 asid = true := by
  induction l generalizing i with
  | nil => simp [probeFrom]
  | cons e l ih =>
    have first : (k = i + 0 ∧ ∃ x, (e :: l)[0]? = some x ∧ x.hits vpn2 asid = true)
        ↔ k = i ∧ e.hits vpn2 asid = true := by simp
    have later : (∃ n, k = i + (n + 1) ∧ ∃ x, (e :: l)[n + 1]? = some x ∧ x.hits vpn2 asid = true)
        ↔ k ∈ probeFrom vpn2 asid l (i + 1) := by
      simp only [ih, List.getElem?_cons_succ, Nat.add_comm 1, Nat.add_assoc]
    rw [← Nat.or_exists_add_one, first, later, probeFrom]
    split
    next found => simp [found]
    next missed => simp [missed]

theorem nodup_probeFrom (l : List TlbEntry) (i : Nat) : (probeFrom vpn2 asid l i).Nodup := by
  induction l generalizing i with
  | nil => exact List.nodup_nil
  | cons e l ih =>
    rw [probeFrom]
    split
    · refine List.nodup_cons.2 ⟨fun again => ?_, ih (i + 1)⟩
      have := (probeFrom_bound vpn2 asid l (i + 1) i again).1
      omega
    · exact ih (i + 1)

end

/-- The entry of this number matches EntryHi (spec/47_cp0.md R276). -/
def State.Matches (s : State) (k : Nat) : Prop :=
  ∃ x, s.tlb[k]? = some x ∧ (x.g = true ∨ x.asid = s.cp0.entryHi.extractLsb' 0 8)
    ∧ ∀ j, j < 19 → x.mask.getLsbD j = false → x.vpn2.getLsbD j = s.cp0.entryHi.getLsbD (13 + j)

section
variable {s : State}

theorem mem_probeFrom_iff_matches {k : Nat} :
    k ∈ probeFrom (s.cp0.entryHi.extractLsb' 13 19) s.cp0.asid s.tlb 0 ↔ s.Matches k := by
  simp only [mem_probeFrom, Nat.zero_add, exists_eq_left', hits_iff]
  rfl

theorem State.probe_of_no_match (h : ∀ k, ¬ s.Matches k) : s.probe = 0x80000000 := by
  have empty : probeFrom (s.cp0.entryHi.extractLsb' 13 19) s.cp0.asid s.tlb 0 = [] :=
    List.eq_nil_iff_forall_not_mem.2 fun k found => h k (mem_probeFrom_iff_matches.1 found)
  rw [State.probe, empty]

theorem State.probe_of_one_match {k : Nat} (found : s.Matches k) (only : ∀ l, s.Matches l → l = k) :
    s.probe = BitVec.ofNat 32 k := by
  have one : probeFrom (s.cp0.entryHi.extractLsb' 13 19) s.cp0.asid s.tlb 0 = [k] := by
    have numbers := nodup_probeFrom (vpn2 := s.cp0.entryHi.extractLsb' 13 19) (asid := s.cp0.asid) s.tlb 0
    exact List.perm_singleton.1 ((List.perm_ext_iff_of_nodup numbers (List.nodup_singleton k)).2 fun l => by
      rw [mem_probeFrom_iff_matches, List.mem_singleton]
      exact ⟨only l, fun e => e ▸ found⟩)
  rw [State.probe, one]

end

/-! ## What the instructions do -/

/-- The state in which Random shows the draw (spec/47_cp0.md R275). -/
def State.drawn (s : State) : State := { s with cp0 := { s.cp0 with random := BitVec.ofNat 32 s.randomIndex } }

/-- The write of one entry changes the TLB alone. -/
theorem State.writeEntry_next {s : State} (legal : s.cp0.pageMask.extractLsb' 13 16 ∈ s.cfg.pageMaskLegal) (i : Nat) :
    ∃ t, s.writeEntry i = .next t ∧ t.tlb = s.tlb.set i s.entryFromRegs ∧ Advances s t ∧ KeepsAllBut [.tlb] s t := by
  refine ⟨_, (s.writeEntry_cases i).1 legal, rfl, by simp [Advances], ?_⟩
  apply keepsAllBut_of_fields <;> simp

section
variable {s : State} (usable : s.cp0Usable = true)
include usable

theorem exec_tlbwi_of_lt (inside : s.indexField < s.tlbEntries) : exec .tlbwi s = s.writeEntry s.indexField :=
  (s.withCp0_usable _ usable).trans (if_pos inside)

theorem exec_tlbwr_usable : exec .tlbwr s = s.drawn.writeEntry s.randomIndex :=
  s.withCp0_usable _ usable

theorem exec_tlbr_of_entry {e : TlbEntry} (he : s.tlb[s.indexField]? = some e) :
    exec .tlbr s = .next { s.retire [] with cp0 := s.regsFromEntry e } :=
  (s.withCp0_usable _ usable).trans (by rw [he])

theorem exec_tlbp_usable : exec .tlbp s = .next { s.retire [] with cp0 := { s.cp0 with index := s.probe } } :=
  s.withCp0_usable _ usable

/-- An Index past the TLB stops the machine (U13, log 22). -/
theorem stops_of_index_past (past : s.tlbEntries ≤ s.indexField) :
    Stops .tlbr s .tlbIndexOutOfRange ∧ Stops .tlbwi s .tlbIndexOutOfRange := by
  have missing : s.tlb[s.indexField]? = none := List.getElem?_eq_none past
  exact ⟨(s.withCp0_usable _ usable).trans (by rw [missing]),
    (s.withCp0_usable _ usable).trans (if_neg (Nat.not_lt.2 past))⟩

end

/-- Settles O29: TLBWI and TLBWR are the write of one entry, TLBR shows an entry, and TLBP is decided by the
entries that match. -/
theorem tlbInstructions : Obligations.TlbInstructions := by
  intro s form usable c page e i legal shows hit
  have entry : s.entryFromRegs = e := form.entryFromRegs_eq
  refine ⟨decode_of_encode rfl rfl, decode_of_encode rfl rfl, decode_of_encode rfl rfl, decode_of_encode rfl rfl,
    fun inside supported => ?tlbwi, fun supported => ?tlbwr, fun x hx => ?tlbr, ?tlbp, stops_of_index_past usable,
    fun unsupported => ⟨fun inside => ?tlbwiStops, ?tlbwrStops⟩⟩
  case tlbwi =>
    obtain ⟨t, run, tlb, advances, frame⟩ := State.writeEntry_next supported i
    exact ⟨t, (exec_tlbwi_of_lt usable inside).trans run, entry ▸ tlb, advances, frame⟩
  case tlbwr =>
    obtain ⟨word, wired⟩ := form.randomIndex_word
    obtain ⟨t, run, tlb, advances, frame⟩ := State.writeEntry_next (s := s.drawn) supported s.randomIndex
    have cp0 : t.cp0 = s.drawn.cp0 := frame .cp0 (by decide)
    have drawn : KeepsAllBut [.tlb, .cp0] s s.drawn := by apply keepsAllBut_of_fields <;> simp [State.drawn]
    refine ⟨t, (exec_tlbwr_usable usable).trans run, BitVec.ofNat 32 s.randomIndex, ?_, ?_, ?_, cp0, advances,
      keepsAllBut_trans drawn (keepsAllBut_mono (by simp) frame)⟩
    · rw [word]; exact form.randomIndex_lt
    · rw [word]; exact wired
    · rw [word]; exact entry ▸ tlb
  case tlbr =>
    obtain ⟨advances, frame⟩ := s.passBy_withCp0 (s.regsFromEntry x)
    obtain ⟨asid, zeros, vpn2⟩ :=
      entryHi_fields (underMask 19 x.mask x.vpn2 ((s.free .tlbrVpn2).setWidth 19)) x.asid
    refine ⟨_, exec_tlbr_of_entry usable hx, advances, frame, _, _, _, ?_, asid, zeros, fun j _ shown => ?_,
      s.showsPage_pageRead x.mask .tlbrEven x.even x.g, s.showsPage_pageRead x.mask .tlbrOdd x.odd x.g⟩
    · rw [← pageMask_eq_append]; rfl
    · rw [vpn2]; exact getLsbD_underMask _ _ shown
  case tlbp =>
    obtain ⟨advances, frame⟩ := s.passBy_withCp0 { s.cp0 with index := s.probe }
    refine ⟨_, exec_tlbp_usable usable, advances, frame, ⟨_, rfl⟩, fun k found only => ?one, fun missing => ?absent⟩
    case one => rw [← State.probe_of_one_match found only]
    case absent => rw [← State.probe_of_no_match missing]
  case tlbwiStops => exact (exec_tlbwi_of_lt usable inside).trans ((s.writeEntry_cases _).2 unsupported)
  case tlbwrStops => exact (exec_tlbwr_usable usable).trans ((State.writeEntry_cases _ _).2 unsupported)

end Sys2Proof.Machine
end

section
/-! Privilege (spec/60_exceptions.md R348, R365, R366): an instruction that is not of coprocessor 0 leaves CP0 alone or
enters an exception, and so does one that finds coprocessor 0 unusable. One lemma per shared operation, then one case per
constructor. -/
namespace Sys2Proof.Machine

/-- CP0 is the same, or as the entry of an exception leaves it, control at its vector. -/
def KeepsCp0 (s t : State) : Prop :=
  t.cp0 = s.cp0 ∨ ∃ x, t.cp0 = s.cp0.enter x s.restartAddress s.inDelaySlot ∧ t.pc = s.vector x

/-- After an entry the mode is kernel (spec/60_exceptions.md R365). -/
theorem userMode_of_enter {s t : State} {x : Exc} {restart : Word} {ds : Bool} (h : t.cp0 = s.cp0.enter x restart ds) :
    t.userMode = false := by
  have exl : t.cp0.exl = true := by
    rw [h, Cp0.exl, BitVec.getLsbD_eq_getElem (by omega)]
    exact (getElem_putBit s.cp0.status 1 1 true (by omega)).trans (if_pos rfl)
  simp [State.userMode, exl]

theorem userMode_congr {s t : State} (h : t.cp0.status = s.cp0.status) : t.userMode = s.userMode := by
  unfold State.userMode Cp0.ksu Cp0.exl Cp0.erl
  rw [h]

/-! ## Shared operations -/

section
variable {s : State}

theorem next_keepsCp0 {t : State} (h : t.cp0 = s.cp0) : WhenNext (.next t) (KeepsCp0 s) := whenNext_next (.inl h)

theorem raise_keepsCp0 (s : State) (x : Exc) : WhenNext (.next (s.raise x)) (KeepsCp0 s) :=
  whenNext_next (.inr ⟨x, rfl, rfl⟩)

/-- The checks of an access, then its work, which leaves CP0 alone. -/
theorem outcome_keepsCp0 {x : Acc State} (h : ∀ t, x = .ok t → t.cp0 = s.cp0) :
    WhenNext (x.outcome s) (KeepsCp0 s) := by
  cases x with
  | ok t => exact next_keepsCp0 (h t rfl)
  | exc e => exact raise_keepsCp0 s e
  | stop e => exact whenNext_fault e _

theorem withCp1_keepsCp0 {k : Result} (h : WhenNext k (KeepsCp0 s)) : WhenNext (s.withCp1 k) (KeepsCp0 s) :=
  whenNext_ite (fun _ => h) fun _ => raise_keepsCp0 s _

theorem withEven_keepsCp0 {fmt : Fmt} {l : List Reg} {k : Result} (h : WhenNext k (KeepsCp0 s)) :
    WhenNext (s.withEven fmt l k) (KeepsCp0 s) :=
  whenNext_ite (fun _ => h) fun _ => whenNext_refused _ _

theorem writeBack_keepsCp0 (s : State) (l : List Reg) (r : Reg) (v : Word) :
    WhenNext (.next ((s.retire l).writeGpr r v)) (KeepsCp0 s) := next_keepsCp0 (by simp)

theorem aluTrapping_keepsCp0 (s : State) (rd : Reg) (v : BitVec 33) : WhenNext (s.aluTrapping rd v) (KeepsCp0 s) :=
  whenNext_ite (fun _ => raise_keepsCp0 s _) fun _ => writeBack_keepsCp0 s _ _ _

theorem countBits_keepsCp0 (s : State) (b : Bool) (rs rt rd : Reg) :
    WhenNext (s.countBits b rs rt rd) (KeepsCp0 s) :=
  whenNext_ite (fun _ => writeBack_keepsCp0 s _ _ _) fun _ => whenNext_refused _ _

theorem condMove_keepsCp0 (s : State) (rs rt rd : Reg) (cond : Word → Bool) :
    WhenNext (s.condMove rs rt rd cond) (KeepsCp0 s) :=
  whenNext_ite (fun _ => writeBack_keepsCp0 s _ _ _) fun _ => next_keepsCp0 (by simp)

theorem trapIf_keepsCp0 (s : State) (holds : Bool) : WhenNext (s.trapIf holds) (KeepsCp0 s) :=
  whenNext_ite (fun _ => raise_keepsCp0 s _) fun _ => next_keepsCp0 (by simp)

/-! ## Branches and jumps -/

/-- Where a branch goes, CP0 stays. -/
theorem branched_cp0 (u : State) (likely taken : Bool) (cur target : Word) :
    (if taken then u.jumpTo target else if likely then u.nullifySlot cur else u.fallThrough).cp0 = u.cp0 := by
  cases taken
  · cases likely <;> rfl
  · rfl

theorem branch_keepsCp0 (s : State) (likely taken : Bool) (off : Half) :
    WhenNext (s.branch likely taken off) (KeepsCp0 s) :=
  whenNext_ite (fun _ => whenNext_refused _ _) fun _ => next_keepsCp0 ((branched_cp0 ..).trans (by simp))

theorem branchLink_keepsCp0 (s : State) (rs : Reg) (likely taken : Bool) (off : Half) :
    WhenNext (s.branchLink rs likely taken off) (KeepsCp0 s) :=
  whenNext_ite (fun _ => whenNext_refused _ _) fun _ => whenNext_ite (fun _ => whenNext_refused _ _) fun _ =>
    next_keepsCp0 ((branched_cp0 ..).trans (by simp))

theorem jump_keepsCp0 (s : State) (link : Option Reg) (target : Word) :
    WhenNext (s.jump link target) (KeepsCp0 s) :=
  whenNext_ite (fun _ => whenNext_refused _ _) fun _ => next_keepsCp0 (by cases link <;> simp)

/-! ## Loads and stores -/

theorem loadGpr_keepsCp0 (s : State) (base rt : Reg) (off : Half) (n : Nat) (read : PAddr → Acc Word) :
    WhenNext (s.loadGpr base rt off n read) (KeepsCp0 s) := by
  refine outcome_keepsCp0 fun t h => ?_
  obtain ⟨v, -, h⟩ := Acc.bind_ok h
  cases h
  simp

/-- An access whose work, done in the state after the instruction, leaves CP0 alone. -/
theorem access_keepsCp0 (s : State) (va : Word) (n : Nat) (k : AccessKind) {work : State → PAddr → Acc State}
    (hw : ∀ u pa t, work u pa = .ok t → t.cp0 = u.cp0) :
    WhenNext (((s.locate va n k).bind (work (s.retire []).disturbLink)).outcome s) (KeepsCp0 s) := by
  refine outcome_keepsCp0 fun t h => ?_
  obtain ⟨pa, -, h⟩ := Acc.bind_ok h
  rw [hw _ pa t h]
  simp

theorem storeGpr_keepsCp0 (s : State) (base : Reg) (off : Half) (n : Nat) {write : State → PAddr → Acc State}
    (hw : ∀ u pa t, write u pa = .ok t → t.cp0 = u.cp0) :
    WhenNext (s.storeGpr base off n write) (KeepsCp0 s) := access_keepsCp0 s _ n .store hw

theorem loadFpr_keepsCp0 (s : State) (base : Reg) (off : Half) (n : Nat) {read : State → PAddr → Acc State}
    (hr : ∀ u pa t, read u pa = .ok t → t.cp0 = u.cp0) :
    WhenNext (s.loadFpr base off n read) (KeepsCp0 s) := access_keepsCp0 s _ n .load hr

theorem storeFpu_keepsCp0 (s : State) (base : Reg) (off : Half) (n : Nat) {write : State → PAddr → Acc State}
    (hw : ∀ u pa t, write u pa = .ok t → t.cp0 = u.cp0) :
    WhenNext (s.storeFpu base off n write) (KeepsCp0 s) := access_keepsCp0 s _ n .store hw

/-- A write the platform is asked for, done by f. -/
theorem accept_then_cp0 {u t : State} {pa : PAddr} {n : Nat} {k : AccessKind} {f : PAddr → State}
    (h : ((u.accept pa n k).bind fun p => .ok (f p)) = .ok t) (hf : ∀ p, (f p).cp0 = u.cp0) : t.cp0 = u.cp0 := by
  obtain ⟨p, rfl⟩ := accept_then h
  exact hf p

theorem putByte_cp0 {u t : State} {pa : PAddr} {v : Byte} (h : u.putByte pa v = .ok t) : t.cp0 = u.cp0 :=
  accept_then_cp0 h (by simp)

theorem putHalf_cp0 {u t : State} {pa : PAddr} {v : Half} (h : u.putHalf pa v = .ok t) : t.cp0 = u.cp0 :=
  accept_then_cp0 h (by simp)

theorem putWord_cp0 {u t : State} {pa : PAddr} {v : Word} (h : u.putWord pa v = .ok t) : t.cp0 = u.cp0 :=
  accept_then_cp0 h (by simp)

theorem putDword_cp0 {u t : State} {pa : PAddr} {v : DWord} (h : u.putDword pa v = .ok t) : t.cp0 = u.cp0 :=
  accept_then_cp0 h (by simp)

theorem putLanes_cp0 {u t : State} {pa : PAddr} {chosen : Nat → Bool} {w : Word}
    (h : u.putLanes pa chosen w = .ok t) : t.cp0 = u.cp0 :=
  accept_then_cp0 h (by simp)

theorem execLl_keepsCp0 (base rt : Reg) (off : Half) (s : State) : WhenNext (execLl base rt off s) (KeepsCp0 s) := by
  refine outcome_keepsCp0 fun t h => ?_
  obtain ⟨pa, -, h⟩ := Acc.bind_ok h
  obtain ⟨v, -, h⟩ := Acc.bind_ok h
  cases h
  simp

theorem execSc_keepsCp0 (base rt : Reg) (off : Half) (s : State) : WhenNext (execSc base rt off s) (KeepsCp0 s) := by
  refine outcome_keepsCp0 fun t h => ?_
  obtain ⟨pa, -, h⟩ := Acc.bind_ok h
  split at h
  · rw [putWord_cp0 h]; simp
  · cases h; simp

/-! ## HI and LO -/

theorem multiply_keepsCp0 (s : State) (rs rt : Reg) (f : Word → Word → DWord) :
    WhenNext (s.multiply rs rt f) (KeepsCp0 s) := next_keepsCp0 (by simp)

theorem accumulate_keepsCp0 (s : State) (rs rt : Reg) (f : DWord → Word → Word → DWord) :
    WhenNext (s.accumulate rs rt f) (KeepsCp0 s) := next_keepsCp0 (by simp)

theorem divide_keepsCp0 (s : State) (rs rt : Reg) (quot rem : Word → Word → Word) :
    WhenNext (s.divide rs rt quot rem) (KeepsCp0 s) := next_keepsCp0 (by simp)

theorem moveFrom_keepsCp0 (s : State) (fromHi : Bool) (rd : Reg) : WhenNext (s.moveFrom fromHi rd) (KeepsCp0 s) :=
  next_keepsCp0 (by simp)

theorem execMul_keepsCp0 (rs rt rd : Reg) (s : State) : WhenNext (execMul rs rt rd s) (KeepsCp0 s) :=
  next_keepsCp0 (by simp)

theorem execMthi_keepsCp0 (rs : Reg) (s : State) : WhenNext (execMthi rs s) (KeepsCp0 s) := next_keepsCp0 (by simp)

theorem execMtlo_keepsCp0 (rs : Reg) (s : State) : WhenNext (execMtlo rs s) (KeepsCp0 s) := next_keepsCp0 (by simp)

/-! ## The FPU -/

/-- The end of an operation, after the FPU has noted what it notes. -/
theorem fpFinish_keepsCp0 {regs : List Reg} {u : State} (h : OnlyFpu regs s u) (x : FpConds) {write : State → State}
    (hw : ∀ v, (write v).cp0 = v.cp0) : WhenNext (u.fpFinish x write) (KeepsCp0 s) := by
  obtain ⟨⟨a, b, c, rfl⟩, -⟩ := h
  rw [State.fpFinish_eq]
  exact whenNext_ite (fun _ => whenNext_next (.inr ⟨.floatingPoint, rfl, rfl⟩)) fun _ =>
    next_keepsCp0 ((hw _).trans (by simp))

theorem fpBinary_keepsCp0 (s : State) (i : Instr) (fmt : Fmt) (f : FpEnv → FpFormat → FpVal → FpVal → FpOut)
    (ft fs fd : Reg) : WhenNext (s.fpBinary i fmt f ft fs fd) (KeepsCp0 s) :=
  withCp1_keepsCp0 (withEven_keepsCp0 (fpFinish_keepsCp0 (regs := [fs, ft])
    ((onlyFpu_fpSpoil (by simp) s _ fmt).trans (onlyFpu_fpSpoil (by simp) _ _ fmt)) _ (by simp)))

theorem fpUnary_keepsCp0 (s : State) (i : Instr) (fmt dst : Fmt) (f : BitVec 64 → FpOut) (fs fd : Reg) :
    WhenNext (s.fpUnary i fmt dst f fs fd) (KeepsCp0 s) :=
  withCp1_keepsCp0 (withEven_keepsCp0 (withEven_keepsCp0 (fpFinish_keepsCp0 (regs := [fs])
    (onlyFpu_fpSpoil (by simp) s _ fmt) _ (by simp))))

theorem fpSign_keepsCp0 (s : State) (i : Instr) (fmt : Fmt) (sign : Bool → Bool) (fs fd : Reg) :
    WhenNext (s.fpSign i fmt sign fs fd) (KeepsCp0 s) := fpUnary_keepsCp0 s i fmt fmt _ fs fd

theorem fpRoot_keepsCp0 (s : State) (i : Instr) (fmt : Fmt) (fs fd : Reg) :
    WhenNext (s.fpRoot i fmt fs fd) (KeepsCp0 s) := fpUnary_keepsCp0 s i fmt fmt _ fs fd

theorem fpCvt_keepsCp0 (s : State) (i : Instr) (fmt dst : Fmt) (fs fd : Reg) :
    WhenNext (s.fpCvt i fmt dst fs fd) (KeepsCp0 s) := fpUnary_keepsCp0 s i fmt dst _ fs fd

theorem fpToW_keepsCp0 (s : State) (i : Instr) (fmt : Fmt) (rm : BitVec 2) (fs fd : Reg) :
    WhenNext (s.fpToW i fmt rm fs fd) (KeepsCp0 s) := fpUnary_keepsCp0 s i fmt .w _ fs fd

theorem fpCmp_keepsCp0 (s : State) (i : Instr) (fmt : Fmt) (cond : BitVec 4) (ft fs : Reg) (cc : Cc) :
    WhenNext (s.fpCmp i fmt cond ft fs cc) (KeepsCp0 s) :=
  withCp1_keepsCp0 (withEven_keepsCp0 (fpFinish_keepsCp0 (regs := [fs, ft])
    ((onlyFpu_fpSpoil (by simp) s _ fmt).trans (onlyFpu_fpSpoil (by simp) _ _ fmt)) _ (by simp)))

theorem fpMoveIf_keepsCp0 (s : State) (i : Instr) (fmt : Fmt) (b c : BitVec 64) (cond : Bool) (fs fd : Reg) :
    WhenNext (s.fpMoveIf i fmt b c cond fs fd) (KeepsCp0 s) := by
  refine withCp1_keepsCp0 (withEven_keepsCp0 (whenNext_ite (fun _ => fpFinish_keepsCp0 (.refl [] s) _ fun _ => rfl)
    fun _ => whenNext_ite (fun _ => next_keepsCp0 (by simp)) fun _ => next_keepsCp0 ?_))
  split <;> simp

theorem fpBranch_keepsCp0 (s : State) (i : Instr) (cc : Cc) (likely tf : Bool) (off : Half) :
    WhenNext (s.fpBranch i cc likely tf off) (KeepsCp0 s) :=
  whenNext_ite (fun _ => whenNext_refused _ _) fun _ => withCp1_keepsCp0
    (whenNext_ite (fun _ => fpFinish_keepsCp0 (.refl [] s) _ fun _ => rfl) fun _ => branch_keepsCp0 s _ _ _)

theorem execLwc1_keepsCp0 (base ft : Reg) (off : Half) (s : State) :
    WhenNext (execLwc1 base ft off s) (KeepsCp0 s) := by
  refine withCp1_keepsCp0 (loadFpr_keepsCp0 s _ _ _ fun u pa t h => ?_)
  obtain ⟨v, -, h⟩ := Acc.bind_ok h
  cases h
  simp

theorem execLdc1_keepsCp0 (base ft : Reg) (off : Half) (s : State) :
    WhenNext (execLdc1 base ft off s) (KeepsCp0 s) := by
  refine withCp1_keepsCp0 (withEven_keepsCp0 (loadFpr_keepsCp0 s _ _ _ fun u pa t h => ?_))
  obtain ⟨v, -, h⟩ := Acc.bind_ok h
  cases h
  simp

theorem execCtc1_keepsCp0 (rt fs : Reg) (s : State) : WhenNext (execCtc1 rt fs s) (KeepsCp0 s) := by
  refine withCp1_keepsCp0 ?_
  cases s.writeFcr fs (s.srcRt rt) with
  | none => exact whenNext_refused _ _
  | some w =>
    exact whenNext_ite (fun _ => whenNext_next (.inr ⟨.floatingPoint, rfl, rfl⟩)) fun _ => next_keepsCp0 (by simp)

/-! ## Coprocessor 0 -/

/-- In user mode with CU0 = 0 the instruction is not begun. -/
theorem withCp0_keepsCp0 (h : s.cp0Usable = false) (k : Result) : WhenNext (s.withCp0 k) (KeepsCp0 s) := by
  rw [State.withCp0, if_neg (by simp [h])]
  exact raise_keepsCp0 s _

end

/-! ## Every instruction -/

/-- The instruction is none of coprocessor 0, or finds it unusable. -/
def Unprivileged (i : Instr) (s : State) : Prop := usesCp0 i = true → s.cp0Usable = false

theorem exec_keepsCp0 (i : Instr) (s : State) (h : Unprivileged i s) : WhenNext (exec i s) (KeepsCp0 s) := by
  have unusable (word : opOf (encode i) = 16) : s.cp0Usable = false := h (decide_eq_true word)
  unfold exec
  cases i with
  | add | sub | addi => exact aluTrapping_keepsCp0 s _ _
  | addu | subu | and | or | xor | nor | slt | sltu | sllv | srlv | srav | sll | srl | sra | addiu | slti | sltiu
  | andi | ori | xori | lui | nop | ssnop => exact writeBack_keepsCp0 s _ _ _
  | movn | movz => exact condMove_keepsCp0 s _ _ _ _
  | clz | clo => exact countBits_keepsCp0 s _ _ _ _
  | mult | multu => exact multiply_keepsCp0 s _ _ _
  | div | divu => exact divide_keepsCp0 s _ _ _ _
  | madd | maddu | msub | msubu => exact accumulate_keepsCp0 s _ _ _
  | mul => exact execMul_keepsCp0 _ _ _ s
  | mfhi | mflo => exact moveFrom_keepsCp0 s _ _
  | mthi => exact execMthi_keepsCp0 _ s
  | mtlo => exact execMtlo_keepsCp0 _ s
  | j | jal | jr => exact jump_keepsCp0 s _ _
  | jalr => exact whenNext_ite (fun _ => whenNext_refused _ _) fun _ => jump_keepsCp0 s _ _
  | syscall | brk => exact raise_keepsCp0 s _
  | sync => exact next_keepsCp0 (by simp)
  | tge | tgeu | tlt | tltu | teq | tne | tgei | tgeiu | tlti | tltiu | teqi | tnei => exact trapIf_keepsCp0 s _
  | lb | lh | lwl | lw | lbu | lhu | lwr => exact loadGpr_keepsCp0 s _ _ _ _ _
  | sb => exact storeGpr_keepsCp0 s _ _ _ fun _ _ _ => putByte_cp0
  | sh => exact storeGpr_keepsCp0 s _ _ _ fun _ _ _ => putHalf_cp0
  | sw => exact storeGpr_keepsCp0 s _ _ _ fun _ _ _ => putWord_cp0
  | swl | swr => exact storeGpr_keepsCp0 s _ _ _ fun _ _ _ => putLanes_cp0
  | ll => exact execLl_keepsCp0 _ _ _ s
  | sc => exact execSc_keepsCp0 _ _ _ s
  | beq | bne | beql | bnel | blez | bgtz | blezl | bgtzl | bltz | bgez | bltzl | bgezl | b =>
    exact branch_keepsCp0 s _ _ _
  | bltzal | bgezal | bltzall | bgezall | bal => exact branchLink_keepsCp0 s _ _ _ _
  | mfc0 | mtc0 | tlbr | tlbwi | tlbwr | tlbp => exact withCp0_keepsCp0 (unusable (by simp [encode])) _
  | eret | wait =>
    exact whenNext_ite (fun _ => whenNext_refused _ _) fun _ => withCp0_keepsCp0 (unusable (by simp [encode])) _
  | lwc1 => exact execLwc1_keepsCp0 _ _ _ s
  | ldc1 => exact execLdc1_keepsCp0 _ _ _ s
  | swc1 => exact withCp1_keepsCp0 (storeFpu_keepsCp0 s _ _ _ fun _ _ _ => putWord_cp0)
  | sdc1 => exact withCp1_keepsCp0 (withEven_keepsCp0 (storeFpu_keepsCp0 s _ _ _ fun _ _ _ => putDword_cp0))
  | mfc1 | cfc1 => exact withCp1_keepsCp0 (writeBack_keepsCp0 s _ _ _)
  | mtc1 => exact withCp1_keepsCp0 (next_keepsCp0 (by simp))
  | ctc1 => exact execCtc1_keepsCp0 _ _ s
  | bc1f | bc1fl | bc1t | bc1tl => exact fpBranch_keepsCp0 s _ _ _ _ _
  | addS | addD | subS | subD | mulS | mulD | divS | divD => exact fpBinary_keepsCp0 s _ _ _ _ _ _
  | sqrtS | sqrtD => exact fpRoot_keepsCp0 s _ _ _ _
  | absS | absD | negS | negD => exact fpSign_keepsCp0 s _ _ _ _ _
  | cvtSD | cvtSW | cvtDS | cvtDW => exact fpCvt_keepsCp0 s _ _ _ _ _
  | roundWS | roundWD | truncWS | truncWD | ceilWS | ceilWD | floorWS | floorWD | cvtWS | cvtWD =>
    exact fpToW_keepsCp0 s _ _ _ _ _
  | movS | movD | movfS | movfD | movtS | movtD | movzS | movzD | movnS | movnD =>
    exact fpMoveIf_keepsCp0 s _ _ _ _ _ _ _
  | cFS | cFD | cUnS | cUnD | cEqS | cEqD | cUeqS | cUeqD | cOltS | cOltD | cUltS | cUltD | cOleS | cOleD | cUleS
  | cUleD | cSfS | cSfD | cNgleS | cNgleD | cSeqS | cSeqD | cNglS | cNglD | cLtS | cLtD | cNgeS | cNgeD | cLeS | cLeD
  | cNgtS | cNgtD => exact fpCmp_keepsCp0 s _ _ _ _ _ _

/-! ## Leaving kernel mode (spec/60_exceptions.md R365) -/

/-- The mode is kernel, or Status is as before. -/
def KeepsMode (s t : State) : Prop := t.userMode = false ∨ t.cp0.status = s.cp0.status

theorem KeepsCp0.keepsMode {s t : State} (h : KeepsCp0 s t) : KeepsMode s t := by
  rcases h with kept | ⟨x, entered, -⟩
  · exact .inr (congrArg Cp0.status kept)
  · exact .inl (userMode_of_enter entered)

theorem withCp0_keepsMode {s : State} {k : Result} (h : WhenNext k (KeepsMode s)) :
    WhenNext (s.withCp0 k) (KeepsMode s) :=
  whenNext_ite (fun _ => h) fun _ => whenNext_next (.inl (userMode_of_enter rfl))

/-- MTC0 of a register other than Status keeps Status. -/
theorem State.writeCp0_status {s : State} {rd : Reg} {v : Word} {c : Cp0} (h : s.writeCp0 rd v = some c)
    (other : rd ≠ 12) : c.status = s.cp0.status := by
  have number : rd.toNat ≠ 12 := fun e => other (BitVec.eq_of_toNat_eq e)
  unfold State.writeCp0 at h
  split at h <;> simp at h
  case h_11 hn => exact absurd hn number
  case h_8 | h_10 => obtain ⟨-, rfl⟩ := h; rfl
  all_goals subst h; rfl

theorem writeEntry_keepsMode {s u : State} (h : u.cp0.status = s.cp0.status) (i : Nat) :
    WhenNext (u.writeEntry i) (KeepsMode s) :=
  whenNext_ite (fun _ => whenNext_next (.inr (by simpa using h))) fun _ => whenNext_fault _ _

/-- The instructions of coprocessor 0 but ERET and MTC0 to Status keep the mode. -/
theorem exec_cp0_keepsMode {i : Instr} (s : State) (hi : usesCp0 i = true) (noEret : i ≠ .eret)
    (noStatus : ∀ rt, i ≠ .mtc0 rt 12) : WhenNext (exec i s) (KeepsMode s) := by
  have word : opOf (encode i) = 16 := of_decide_eq_true hi
  cases i with
  | mfc0 rt rd => exact withCp0_keepsMode (whenNext_next (.inr (by simp only; split <;> rfl)))
  | mtc0 rt rd =>
    have other : rd ≠ 12 := fun e => noStatus rt (e ▸ rfl)
    refine withCp0_keepsMode (whenNext_ite (fun _ => whenNext_refused _ _) fun _ => ?_)
    cases hw : s.writeCp0 rd (s.srcRt rt) with
    | none => exact whenNext_refused _ _
    | some c => exact whenNext_next (.inr (State.writeCp0_status hw other))
  | tlbr =>
    refine withCp0_keepsMode ?_
    cases s.tlb[s.indexField]? with
    | none => exact whenNext_fault _ _
    | some e => exact whenNext_next (.inr rfl)
  | tlbwi =>
    exact withCp0_keepsMode (whenNext_ite (fun _ => writeEntry_keepsMode rfl _) fun _ => whenNext_fault _ _)
  | tlbwr => exact withCp0_keepsMode (writeEntry_keepsMode rfl _)
  | tlbp => exact withCp0_keepsMode (whenNext_next (.inr rfl))
  | eret => exact absurd rfl noEret
  | wait =>
    exact whenNext_ite (fun _ => whenNext_refused _ _) fun _ =>
      withCp0_keepsMode (whenNext_next (.inr (by simp)))
  | _ => simp [encode] at word

/-- Settles O57: what is not of coprocessor 0, or finds it unusable, keeps CP0 but by an exception, and in coprocessor 0
only ERET and MTC0 write the bits of the mode. -/
theorem privilegeRules : Obligations.PrivilegeRules := by
  intro i s t run
  refine ⟨fun user cu0 => ?user, fun kernel left => ?kernel⟩
  case user =>
    have unusable : s.cp0Usable = false := by simp [State.cp0Usable, user, cu0]
    have kept := exec_keepsCp0 i s (fun _ => unusable) t run
    refine ⟨?tlb, kept.imp_right fun ⟨x, entered, vector⟩ => ⟨x, entered, vector, userMode_of_enter entered⟩⟩
    by_cases writer : i = .tlbwi ∨ i = .tlbwr
    · have refused (k : Result) (h : s.withCp0 k = .next t) : t.tlb = s.tlb := by
        rw [State.withCp0, if_neg (by simp [unusable])] at h
        cases h
        rfl
      rcases writer with rfl | rfl
      · exact refused _ run
      · exact refused _ run
    · exact (exec_follows i s t run).tlb.resolve_left writer
  case kernel =>
    by_contra other
    push Not at other
    obtain ⟨noEret, noStatus⟩ := other
    have mode : KeepsMode s t := by
      by_cases hi : usesCp0 i = true
      · exact exec_cp0_keepsMode s hi noEret noStatus t run
      · exact (exec_keepsCp0 i s (fun h => absurd h hi) t run).keepsMode
    rcases mode with kernel' | same
    · rw [kernel'] at left; cases left
    · rw [userMode_congr same, kernel] at left; cases left

end Sys2Proof.Machine
end

section
/-! The instructions of a coprocessor that is not usable (spec/60_exceptions.md R348, spec/48_fpu_move.md R280): each of
them asks first, but for those that must not stand in a delay slot, which look at the slot before. -/
namespace Sys2Proof.Machine

section
variable {i : Instr} {s : State} {k : Result}

theorem unusable_of_withCp0 (h : s.cp0Usable = false) (he : exec i s = s.withCp0 k) :
    Completes i s (fun t => EntersUnusable s t 0) := by
  rw [Completes, he]
  exact s.withCp0_unusable k h

theorem unusable_of_withCp1 (h : s.cp1Usable = false) (he : exec i s = s.withCp1 k) :
    Completes i s (fun t => EntersUnusable s t 1) := by
  rw [Completes, he]
  exact s.withCp1_unusable k h

end

/-! ## Delay slots (spec/10_state.md R29) -/

/-- The words of the CP0 instructions without a move have bit 25. -/
theorem le_rsOf_wordCo (code : BitVec 19) (f : BitVec 6) : 16 ≤ (rsOf (wordCo code f)).toNat := by
  have bit : (rsOf (wordCo code f)).getLsbD 4 = true := by
    rw [rsOf, BitVec.getLsbD_extractLsb']
    exact wordCo_co code f
  exact Nat.ge_two_pow_of_testBit bit

theorem notInSlot_wait (code : BitVec 19) : notInSlot (.wait code) = true := by
  simp [notInSlot, encode]
  exact decide_eq_true (le_rsOf_wordCo code 32)

theorem notInSlot_fpuBranch {i : Instr} {field : BitVec 5} {off : Half} (h : encode i = wordI 17 8 field off) :
    notInSlot i = true := by
  simp [notInSlot, h]

/-- Outside a delay slot ERET, WAIT and the branches of the FPU ask for their coprocessor. -/
theorem fpBranch_outside {s : State} (h : s.inDelaySlot = false) (i : Instr) (cc : Cc) (likely tf : Bool) (off : Half) :
    s.fpBranch i cc likely tf off = s.withCp1 (
      if s.fpListed i ((BitVec.ofBool (s.fpCc cc)).setWidth 64) 0 0 then s.fpFinish .justUnimplemented id
      else s.branch likely (s.fpCc cc == tf) off) := if_neg (by simp [h])

/-! ## Every instruction of a coprocessor -/

section
variable {i : Instr} {s : State} (allowed : ¬ (s.inDelaySlot = true ∧ notInSlot i = true))
include allowed

theorem outside_of_allowed (h : notInSlot i = true) : s.inDelaySlot = false :=
  Bool.eq_false_iff.2 fun inSlot => allowed ⟨inSlot, h⟩

theorem exec_cp0_unusable (hi : usesCp0 i = true) (h : s.cp0Usable = false) :
    Completes i s (fun t => EntersUnusable s t 0) := by
  have word : opOf (encode i) = 16 := of_decide_eq_true hi
  have outside := outside_of_allowed allowed
  cases i with
  | mfc0 | mtc0 | tlbr | tlbwi | tlbwr | tlbp => exact unusable_of_withCp0 h rfl
  | eret => exact unusable_of_withCp0 h (if_neg (by simp [outside (by decide)]))
  | wait code => exact unusable_of_withCp0 h (if_neg (by simp [outside (notInSlot_wait code)]))
  | _ => simp [encode] at word

theorem exec_cp1_unusable (hi : usesCp1 i = true) (h : s.cp1Usable = false) :
    Completes i s (fun t => EntersUnusable s t 1) := by
  have word : (opOf (encode i)).toNat ∈ [17, 49, 53, 57, 61] := of_decide_eq_true hi
  have outside := outside_of_allowed allowed
  cases i with
  | lwc1 | ldc1 | swc1 | sdc1 | mfc1 | cfc1 | mtc1 | ctc1 => exact unusable_of_withCp1 h rfl
  | bc1f | bc1fl | bc1t | bc1tl =>
    exact unusable_of_withCp1 h (fpBranch_outside (outside (notInSlot_fpuBranch rfl)) _ _ _ _ _)
  | addS | addD | subS | subD | mulS | mulD | divS | divD | sqrtS | sqrtD | absS | absD | negS | negD | cvtSD | cvtSW
  | cvtDS | cvtDW | roundWS | roundWD | truncWS | truncWD | ceilWS | ceilWD | floorWS | floorWD | cvtWS | cvtWD
  | movS | movD | movfS | movfD | movtS | movtD | movzS | movzD | movnS | movnD => exact unusable_of_withCp1 h rfl
  | cFS | cFD | cUnS | cUnD | cEqS | cEqD | cUeqS | cUeqD | cOltS | cOltD | cUltS | cUltD | cOleS | cOleD | cUleS
  | cUleD | cSfS | cSfD | cNgleS | cNgleD | cSeqS | cSeqD | cNglS | cNglD | cLtS | cLtD | cNgeS | cNgeD | cLeS | cLeD
  | cNgtS | cNgtD => exact unusable_of_withCp1 h rfl
  | _ => simp [encode] at word

end

/-- User mode, by the bits of Status (spec/60_exceptions.md R365). -/
theorem State.userMode_iff (s : State) :
    s.userMode = true ↔ s.cp0.status.extractLsb' 3 2 = 2 ∧ s.cp0.status.extractLsb' 1 2 = 0 := by
  have levels (w : Word) : w.extractLsb' 1 2 = 0 ↔ w.getLsbD 1 = false ∧ w.getLsbD 2 = false := by
    rw [BitVec.eq_of_getLsbD_eq_iff]
    simp [Nat.le_one_iff_eq_zero_or_eq_one]
  rw [levels, State.userMode, Bool.and_eq_true, Bool.and_eq_true, decide_eq_true_iff, Bool.not_eq_true',
    Bool.not_eq_true', and_assoc]
  rfl

theorem State.cp0Usable_iff (s : State) :
    s.cp0Usable = true ↔ s.userMode = false ∨ s.cp0.status.getLsbD 28 = true := by
  simp [State.cp0Usable, Cp0.cu0]

/-- Settles O31. -/
theorem coprocessorUnusable : Obligations.CoprocessorUnusable := by
  intro s i allowed
  refine ⟨fun hi user cu0 => exec_cp0_unusable allowed hi ?_, exec_cp1_unusable allowed, s.userMode_iff,
    s.cp0Usable_iff, Iff.rfl⟩
  simp [State.cp0Usable, user, cu0]

end Sys2Proof.Machine
end

section
/-! The loads and stores of the FPU, and its transfers (spec/48_fpu_move.md R281 to R289). -/
namespace Sys2Proof.Machine

/-! ## Accesses the platform accepts or rejects (spec/20_memory.md R66, R67, R80) -/

theorem onlyMemory_setDword (s : State) (a : Nat) (v : DWord) : OnlyMemory s (s.setDword a v) := by
  unfold State.setDword
  split <;> exact (onlyMemory_setWord ..).trans (onlyMemory_setWord ..)

section
variable {s u : State} {pa : PAddr}

theorem memDword_ok (h : s.admits pa.toNat 8 .load = true) : s.memDword pa = .ok (s.dwordAt pa.toNat) := by
  rw [State.memDword, State.accept_ok h]; rfl

theorem putDword_ok (hcfg : u.cfg = s.cfg) (h : s.admits pa.toNat 8 .store = true) (v : DWord) :
    u.putDword pa v = .ok (u.setDword pa.toNat v) := by
  rw [← State.admits_congr hcfg] at h
  exact congrArg (Acc.bind · _) (State.accept_ok h)

/-- A read in the state that an access works in is a read in s. -/
theorem memWord_beforeStore (h : s.admits pa.toNat 4 .load = true) :
    s.beforeStore.memWord pa = .ok (s.wordAt pa.toNat) := by
  rw [← State.admits_congr s.beforeStore_cfg] at h
  rw [memWord_ok h, State.wordAt_congr s.beforeStore_cfg fun b _ _ => State.byteAt_congr s.beforeStore_mem b]

theorem memDword_beforeStore (h : s.admits pa.toNat 8 .load = true) :
    s.beforeStore.memDword pa = .ok (s.dwordAt pa.toNat) := by
  rw [← State.admits_congr s.beforeStore_cfg] at h
  rw [memDword_ok h, State.dwordAt_congr s.beforeStore_cfg fun b _ _ => State.byteAt_congr s.beforeStore_mem b]

theorem memDword_rejected (h : s.accept pa 8 .load = .exc .busErrorData) : s.memDword pa = .exc .busErrorData :=
  Acc.bind_of_exc h _

theorem putDword_rejected (h : u.accept pa 8 .store = .exc .busErrorData) (v : DWord) :
    u.putDword pa v = .exc .busErrorData := Acc.bind_of_exc h _

theorem accept_beforeStore_rejected {n : Nat} (h : s.admits pa.toNat n .load = false) :
    s.beforeStore.accept pa n .load = .exc .busErrorData :=
  State.accept_load_rejected _ pa n ((State.admits_congr s.beforeStore_cfg ..).trans h)

end

/-! ## Loads (spec/48_fpu_move.md R281 to R283) -/

/-- A double word's other register is the next one (spec/10_state.md R50). -/
theorem partner_of_even {r : Reg} (h : r.getLsbD 0 = false) : partner r = r + 1 := by revert r; decide

theorem suits_double {r : Reg} (h : r.getLsbD 0 = false) : ∀ x ∈ [r], fmtSuits .d x = true := by
  simpa [fmtSuits] using h

/-- What an FPU load leaves besides the registers it writes: no load delay, and a link that may be lost. -/
def FpuLoaded (s t : State) : Prop :=
  Advances s t ∧ KeepsAllBut [.fprs, .link] s t ∧ KeepsLink s t ∧ (t.llBit = true → s.llBit = true)

theorem fpuLoaded_of_fields (s : State) (a : Vector Word 32) (b : Vector FprTag 32) :
    FpuLoaded s { s.beforeStore with fpr := a, fprTag := b } := by
  refine ⟨by simp [Advances, State.beforeStore], ?_, by simp [State.beforeStore], fun h => ?_⟩
  · apply keepsAllBut_of_fields <;> simp [State.beforeStore]
  · simp only [State.beforeStore, State.disturbLink_llBit, State.retire_llBit] at h
    exact (Bool.and_eq_true_iff.1 h).1

section
variable {s : State} (usable : s.cp1Usable = true) (base ft : Reg) (off : Half)
include usable

theorem exec_lwc1_usable : exec (.lwc1 base ft off) s = ((s.locate (s.effAddr base off) 4 .load).bind fun pa =>
    (s.beforeStore.memWord pa).bind fun v => .ok (s.beforeStore.storeFpr32 ft v .rawWord)).outcome s :=
  s.withCp1_usable _ usable

theorem exec_swc1_usable : exec (.swc1 base ft off) s =
    s.storeGpr base off 4 (fun u pa => u.putWord pa (s.readFpr ft)) := s.withCp1_usable _ usable

theorem exec_ldc1_usable (even : ft.getLsbD 0 = false) :
    exec (.ldc1 base ft off) s = ((s.locate (s.effAddr base off) 8 .load).bind fun pa =>
      (s.beforeStore.memDword pa).bind fun v => .ok (s.beforeStore.storeFpr64 ft v .rawDouble)).outcome s :=
  (s.withCp1_usable _ usable).trans (s.withEven_suits .d _ _ (suits_double even))

theorem exec_sdc1_usable (even : ft.getLsbD 0 = false) : exec (.sdc1 base ft off) s =
    s.storeGpr base off 8 (fun u pa => u.putDword pa (s.readFpr64 ft)) :=
  (s.withCp1_usable _ usable).trans (s.withEven_suits .d _ _ (suits_double even))

theorem completes_lwc1 {pa : PAddr} (hl : s.locate (s.effAddr base off) 4 .load = .ok pa)
    (ha : s.admits pa.toNat 4 .load = true) : Completes (.lwc1 base ft off) s (fun t =>
      TakesFpr s t ft (s.wordAt pa.toNat) .rawWord ∧ FpuLoaded s t) :=
  ⟨_, exec_of_located (exec_lwc1_usable usable base ft off) hl (congrArg (Acc.bind · _) (memWord_beforeStore ha)),
    State.storeFpr32_takes (by simp [State.beforeStore]) (by simp [State.beforeStore]) .., fpuLoaded_of_fields s _ _⟩

theorem completes_ldc1 (even : ft.getLsbD 0 = false) {pa : PAddr}
    (hl : s.locate (s.effAddr base off) 8 .load = .ok pa) (ha : s.admits pa.toNat 8 .load = true) :
    Completes (.ldc1 base ft off) s (fun t =>
      TakesFprPair s t ft (s.dwordAt pa.toNat) .rawDouble ∧ FpuLoaded s t) :=
  ⟨_, exec_of_located (exec_ldc1_usable usable base ft off even) hl
    (congrArg (Acc.bind · _) (memDword_beforeStore ha)),
    State.storeFpr64_takes (by simp [State.beforeStore]) (by simp [State.beforeStore]) .., fpuLoaded_of_fields s _ _⟩

theorem stores_swc1 {pa : PAddr} (hl : s.locate (s.effAddr base off) 4 .store = .ok pa)
    (ha : s.admits pa.toNat 4 .store = true) :
    Stores (.swc1 base ft off) s pa.toNat 4 (fun k => byteOf s.cfg.bigEndianMem 4 k (s.readFpr ft)) := by
  have stored := setWord_takesBytes s.beforeStore pa.toNat (s.readFpr ft)
  rw [State.beforeStore_cfg] at stored
  exact stores_of_write (exec_swc1_usable usable base ft off) hl (putWord_ok s.beforeStore_cfg ha _)
    (onlyMemory_setWord ..) stored

theorem stores_sdc1 (even : ft.getLsbD 0 = false) {pa : PAddr}
    (hl : s.locate (s.effAddr base off) 8 .store = .ok pa) (ha : s.admits pa.toNat 8 .store = true) :
    Stores (.sdc1 base ft off) s pa.toNat 8
      (fun k => byteOf s.cfg.bigEndianMem 8 k (s.readFpr (ft + 1) ++ s.readFpr ft)) := by
  have stored := setDword_takesBytes s.beforeStore pa.toNat (s.readFpr64 ft)
  rw [State.beforeStore_cfg] at stored
  rw [← partner_of_even even]
  exact stores_of_write (exec_sdc1_usable usable base ft off even) hl (putDword_ok s.beforeStore_cfg ha _)
    (onlyMemory_setDword ..) stored

theorem accessTraps_lwc1 : AccessTraps (.lwc1 base ft off) s (s.effAddr base off) 4 .load id 4 (fun _ => true) :=
  accessTraps_of _ s _ 4 .load (by decide) id 4 _ _ (exec_lwc1_usable usable base ft off) fun _ _ rejected =>
    Acc.bind_of_exc (memWord_rejected (accept_beforeStore_rejected rejected)) _

theorem accessTraps_ldc1 (even : ft.getLsbD 0 = false) :
    AccessTraps (.ldc1 base ft off) s (s.effAddr base off) 8 .load id 8 (fun _ => true) :=
  accessTraps_of _ s _ 8 .load (by decide) id 8 _ _ (exec_ldc1_usable usable base ft off even) fun _ _ rejected =>
    Acc.bind_of_exc (memDword_rejected (accept_beforeStore_rejected rejected)) _

theorem accessTraps_swc1 : AccessTraps (.swc1 base ft off) s (s.effAddr base off) 4 .store id 4 (fun _ => true) :=
  accessTraps_store (exec_swc1_usable usable base ft off) fun _ _ _ h => putWord_rejected h _

theorem accessTraps_sdc1 (even : ft.getLsbD 0 = false) :
    AccessTraps (.sdc1 base ft off) s (s.effAddr base off) 8 .store id 8 (fun _ => true) :=
  accessTraps_store (exec_sdc1_usable usable base ft off even) fun _ _ _ h => putDword_rejected h _

end

/-- Settles O32. -/
theorem fpuLoadStore : Obligations.FpuLoadStore := by
  intro s base ft off pa usable va big keeps
  exact ⟨decode_of_encode rfl rfl, decode_of_encode rfl rfl, decode_of_encode rfl rfl, decode_of_encode rfl rfl,
    completes_lwc1 usable base ft off, stores_swc1 usable base ft off, accessTraps_lwc1 usable base ft off,
    accessTraps_swc1 usable base ft off, fun even => ⟨completes_ldc1 usable base ft off even,
    stores_sdc1 usable base ft off even, accessTraps_ldc1 usable base ft off even,
    accessTraps_sdc1 usable base ft off even⟩⟩

end Sys2Proof.Machine
end

section
/-! MFC1, MTC1, CFC1 and CTC1 (spec/48_fpu_move.md R286 to R289). -/
namespace Sys2Proof.Machine

/-! ## The control registers (spec/48_fpu_move.md R288, R289) -/

theorem fcsrShown_mask (i : Nat) (h : i < 32) : (0xFF83FFFF : Word).getLsbD i = decide (i < 18 ∨ 23 ≤ i) := by
  revert i; decide

/-- FCSR as CFC1 shows it: bits 22..18 read 0 (spec/10_state.md R54). -/
theorem fcsrShown_eq (w : Word) : w &&& 0xFF83FFFF = w.extractLsb' 23 9 ++ 0#5 ++ w.extractLsb' 0 18 := by
  apply BitVec.eq_of_getLsbD_eq
  intro i hi
  rw [BitVec.getLsbD_and, fcsrShown_mask i hi, BitVec.getLsbD_append, BitVec.getLsbD_append,
    BitVec.getLsbD_extractLsb', BitVec.getLsbD_extractLsb', BitVec.getLsbD_zero]
  by_cases low : i < 18
  · simp [low]
  · by_cases mid : i < 23
    · simp [low, mid, show i - 18 < 5 by omega]
    · simp [low, show ¬ i - 18 < 5 by omega, show 23 ≤ i by omega, show 23 + (i - 18 - 5) = i by omega,
        show i - 18 - 5 < 9 by omega]

/-- What a written FCSR traps on (spec/48_fpu_move.md R289). -/
theorem fcsrTraps_iff (w : Word) :
    fcsrTraps w = true ↔ w.getLsbD 17 = true ∨ w.extractLsb' 12 5 &&& w.extractLsb' 7 5 ≠ 0 := by
  have unimplemented : (fcsrCause w).getLsbD 5 = w.getLsbD 17 := by simp [fcsrCause]
  have enabled : (fcsrCause w).setWidth 5 = w.extractLsb' 12 5 := by
    ext i hi
    simp [fcsrCause, show i < 6 by omega]
  rw [fcsrTraps, unimplemented, enabled, Bool.or_eq_true, decide_eq_true_iff]
  rfl

theorem State.writeFcr_absent (s : State) {fs : Reg} (h : fs.toNat ∉ [25, 26, 28, 31]) (v : Word) :
    s.writeFcr fs v = none := by
  simp only [List.mem_cons, List.not_mem_nil, or_false, not_or] at h
  obtain ⟨h25, h26, h28, h31⟩ := h
  unfold State.writeFcr
  split
  case h_1 e => exact absurd e h25
  case h_2 e => exact absurd e h26
  case h_3 e => exact absurd e h28
  case h_4 e => exact absurd e h31
  case h_5 => rfl

section
variable {s : State} (usable : s.cp1Usable = true) {rt fs : Reg}
include usable

theorem refuses_ctc1 (h : s.writeFcr fs (s.srcRt rt) = none) : Refuses (.ctc1 rt fs) s .ctc1Unpredictable := by
  have run : exec (.ctc1 rt fs) s = _ := s.withCp1_usable _ usable
  rw [h] at run
  exact run

theorem exec_ctc1_written {w : Word} (h : s.writeFcr fs (s.srcRt rt) = some w) : exec (.ctc1 rt fs) s =
    if fcsrTraps w then .next (State.raise { s with fcsr := w } .floatingPoint)
    else .next { s.retire [] with fcsr := w } := by
  have run : exec (.ctc1 rt fs) s = _ := s.withCp1_usable _ usable
  rw [h] at run
  exact run

theorem completes_cfc1 {v : Word} (h : s.readFcr fs = some v) : Completes (.cfc1 rt fs) s (fun t =>
    TakesGpr s t rt v ∧ Advances s t ∧ KeepsAllBut [.gprs] s t) := by
  refine ⟨_, s.withCp1_usable _ usable, ?_⟩
  rw [h]
  exact s.writeBack rt v

/-- CTC1 of bits v that a register allows when ok, and that make FCSR x. -/
theorem ctc1_ends {ok : Bool} {x : Word}
    (h : s.writeFcr fs (s.srcRt rt) = if ok then some x else none) :
    (ok = false → Refuses (.ctc1 rt fs) s .ctc1Unpredictable)
      ∧ (ok = true → (x.getLsbD 17 = true ∨ x.extractLsb' 12 5 &&& x.extractLsb' 7 5 ≠ 0) →
        Completes (.ctc1 rt fs) s (fun t => EntersPlain { s with fcsr := x } t 15))
      ∧ (ok = true → ¬ (x.getLsbD 17 = true ∨ x.extractLsb' 12 5 &&& x.extractLsb' 7 5 ≠ 0) →
        Completes (.ctc1 rt fs) s (fun t => t.fcsr = x ∧ Advances s t ∧ KeepsAllBut [.fcsr] s t)) := by
  simp only [← fcsrTraps_iff]
  refine ⟨fun no => ?_, fun yes traps => ?_, fun yes quiet => ?_⟩
  · exact refuses_ctc1 usable (h.trans (by rw [no]; rfl))
  · have run := exec_ctc1_written usable (h.trans (if_pos yes))
    exact ⟨_, run.trans (if_pos traps), State.raise_plain _ .floatingPoint rfl rfl rfl (by intro e v; cases e <;> rfl)⟩
  · have run := exec_ctc1_written usable (h.trans (if_pos yes))
    refine ⟨_, run.trans (if_neg quiet), rfl, by simp [Advances], ?_⟩
    apply keepsAllBut_of_fields <;> simp

end

/-- Where the written bits must be 0. -/
theorem ite_ne_zero {n : Nat} (v : BitVec n) (x : Word) :
    (if v ≠ 0 then none else some x) = if decide (v = 0) then some x else none := by
  by_cases h : v = 0 <;> simp [h]

/-- Settles O33. -/
theorem fpuTransfers : Obligations.FpuTransfers := by
  intro s rt fs usable w v
  refine ⟨decode_of_encode rfl rfl, decode_of_encode rfl rfl, decode_of_encode rfl rfl, decode_of_encode rfl rfl,
    ?mfc1, ?mtc1, ?cfc1, ?cfc1Free, ?ctc1, fun absent => ?ctc1Absent⟩
  case mfc1 => exact ⟨_, s.withCp1_usable _ usable, s.writeBack rt _⟩
  case mtc1 =>
    refine ⟨_, s.withCp1_usable _ usable, State.storeFpr32_takes (by simp) (by simp) .., by simp [Advances], ?_⟩
    apply keepsAllBut_of_fields <;> simp
  case cfc1 =>
    simp only [List.forall_mem_cons, List.not_mem_nil, false_imp_iff, implies_true, and_true]
    exact ⟨completes_cfc1 usable rfl, completes_cfc1 usable rfl, completes_cfc1 usable rfl, completes_cfc1 usable rfl,
      completes_cfc1 usable (congrArg some (fcsrShown_eq w))⟩
  case cfc1Free =>
    exact ⟨_, s.withCp1_usable _ usable, ⟨_, (s.writeBack rt _).1⟩, (s.writeBack rt _).2⟩
  case ctc1 =>
    simp only [List.forall_mem_cons, List.not_mem_nil, false_imp_iff, implies_true, and_true]
    exact ⟨ctc1_ends usable (ite_ne_zero _ _), ctc1_ends usable (ite_ne_zero _ _), ctc1_ends usable (ite_ne_zero _ _),
      ctc1_ends usable (ite_ne_zero _ _)⟩
  case ctc1Absent => exact refuses_ctc1 usable (s.writeFcr_absent absent v)

end Sys2Proof.Machine
end

section
/-! How the FPU's operations end when their registers suit and hold the formats (spec/49_fpu_arith.md R301, R302, R304):
each shared operation is fpFinish on its conditions. With it the branches, the moves, the operations on two operands, and
the trap of R302. -/
namespace Sys2Proof.Machine

/-- The Floating Point exception of Unimplemented Operation: Cause holds E alone, and nothing else has changed
(spec/49_fpu_arith.md R301, R302). -/
def TrapsUnimplemented (i : Instr) (s : State) : Prop :=
  Completes i s (fun t => ∃ c, FcsrAfter s.fcsr c .justUnimplemented false ∧ EntersPlain { s with fcsr := c } t 15)

/-- Unimplemented Operation traps under every FCSR. -/
theorem trapsUnimplemented_of_fpFinish {i : Instr} {s : State} {x : FpConds} {write : State → State}
    (hx : x = .justUnimplemented) (he : exec i s = s.fpFinish x write) : TrapsUnimplemented i s := by
  subst hx
  have traps : fcsrTraps (fcsrSetCause s.fcsr .justUnimplemented) = true := (fcsrTraps_setCause _ _).2 (.inl rfl)
  exact ⟨_, he.trans (by rw [State.fpFinish_eq, if_pos traps]), _, fcsrAfter_setCause _ _,
    State.raise_plain _ .floatingPoint rfl rfl rfl (by intro e v; cases e <;> rfl)⟩

/-- An operation that ends in fpFinish with a result to write. -/
theorem fpEnds_of_result {i : Instr} {s : State} {x : FpConds} {fd : Reg} {dst : Fmt} {v : BitVec 64}
    (he : exec i s = s.fpFinish x fun t => t.storeFpr fd dst v) :
    FpEnds i s x (fun t => TakesFormat s t fd dst v ∧ FcsrAfter s.fcsr t.fcsr x true
      ∧ KeepsAllBut [.fprs, .fcsr] s t) :=
  fpEnds_of_fpFinish i s x _ _ he (s.storeFpr_finish fd dst v x)

/-! ## Unimplemented Operation in an operation's place (spec/49_fpu_arith.md R302) -/

section
variable {s : State} {i : Instr} {fmt dst : Fmt} {a b : BitVec 64} {out : FpOut}

@[simp] theorem State.fpChecked_value : (s.fpChecked i fmt dst a b out).value = out.value := by
  unfold State.fpChecked; split <;> rfl

theorem State.fpChecked_unimplemented (h : s.fpUnimplementedOn i fmt a b = true ∨ s.fpDenormal dst out.value = true) :
    (s.fpChecked i fmt dst a b out).conds = .justUnimplemented := by
  unfold State.fpChecked
  rw [if_pos (Bool.or_eq_true_iff.2 h)]

theorem State.fpChecked_conds (h : s.fpUnimplementedOn i fmt a b = false) :
    (s.fpChecked i fmt dst a b out).conds =
      if s.fpDenormal dst out.value then .justUnimplemented else out.conds := by
  unfold State.fpChecked
  rw [h, Bool.false_or]
  split <;> rfl

theorem State.fpDenormal_word (s : State) (v : BitVec 64) : s.fpDenormal .w v = false := by simp [State.fpDenormal]

/-- A number of S or D is its pattern's. -/
theorem State.fpNumber_float (s : State) (h : fmt ≠ .w) (v : BitVec 64) :
    s.fpNumber fmt v = fpUnpack (fpFormat fmt) s.cfg.nan2008 v := by
  cases fmt with
  | s | d => rfl
  | w => exact absurd rfl h

end

/-! ## The shared operations on operands in their format -/

section
variable {s : State} (usable : s.cp1Usable = true) {fmt dst : Fmt} {ft fs fd : Reg}
include usable

theorem State.fpBinary_held (i : Instr) (f : FpEnv → FpFormat → FpVal → FpVal → FpOut)
    (suits : ∀ r ∈ [ft, fs, fd], fmtSuits fmt r = true) (hs : s.holds fs fmt = true) (ht : s.holds ft fmt = true) :
    s.fpBinary i fmt f ft fs fd =
      let a := s.valueFpr fs fmt
      let b := s.valueFpr ft fmt
      let out := s.fpChecked i fmt fmt a b (f s.fpEnv (fpFormat fmt) (s.fpNumber fmt a) (s.fpNumber fmt b))
      s.fpFinish out.conds fun t => t.storeFpr fd fmt out.value := by
  have reordered : ∀ r ∈ [fs, ft, fd], fmtSuits fmt r = true := fun r hr => suits r (by simp at hr ⊢; tauto)
  rw [State.fpBinary, s.withCp1_usable _ usable, s.withEven_suits _ _ _ reordered, s.fpSpoil_held _ _ _ hs,
    s.fpSpoil_held _ _ _ ht, s.fpOperand_held _ _ _ hs, s.fpOperand_held _ _ _ ht, hs, ht]
  rfl

theorem State.fpUnary_held (i : Instr) (f : BitVec 64 → FpOut) (hfs : fmtSuits fmt fs = true)
    (hfd : fmtSuits dst fd = true) (hs : s.holds fs fmt = true) :
    s.fpUnary i fmt dst f fs fd =
      let a := s.valueFpr fs fmt
      let out := s.fpChecked i fmt dst a 0 (f a)
      s.fpFinish out.conds fun t => t.storeFpr fd dst out.value := by
  rw [State.fpUnary, s.withCp1_usable _ usable, s.withEven_suits _ _ _ (by simpa using hfs),
    s.withEven_suits _ _ _ (by simpa using hfd), s.fpSpoil_held _ _ _ hs, s.fpOperand_held _ _ _ hs, hs]
  rfl

theorem State.fpCmp_held (i : Instr) (cond : BitVec 4) (cc : Cc) (hfs : fmtSuits fmt fs = true)
    (hft : fmtSuits fmt ft = true) (hs : s.holds fs fmt = true) (ht : s.holds ft fmt = true) :
    s.fpCmp i fmt cond ft fs cc =
      let a := s.valueFpr fs fmt
      let b := s.valueFpr ft fmt
      let out := fpCompare cond (s.fpNumber fmt a) (s.fpNumber fmt b)
      s.fpFinish (if s.fpUnimplementedOn i fmt a b then .justUnimplemented else out.2) fun t => t.setFpCc cc out.1 := by
  rw [State.fpCmp, s.withCp1_usable _ usable, s.withEven_suits _ _ _ (by simp [hfs, hft]), s.fpSpoil_held _ _ _ hs,
    s.fpSpoil_held _ _ _ ht, s.fpOperand_held _ _ _ hs, s.fpOperand_held _ _ _ ht, hs, ht]
  rfl

/-! ## Two operands (spec/49_fpu_arith.md R307 to R310) -/

variable {i : Instr}

theorem fpBinary_ends {f : FpEnv → FpFormat → FpVal → FpVal → FpOut} (he : exec i s = s.fpBinary i fmt f ft fs fd)
    (float : fmt ≠ .w) (suits : ∀ r ∈ [ft, fs, fd], fmtSuits fmt r = true) (hs : s.holds fs fmt = true)
    (ht : s.holds ft fmt = true)
    (implemented : s.fpUnimplementedOn i fmt (s.valueFpr fs fmt) (s.valueFpr ft fmt) = false) {out : FpOut}
    (hout : out = f s.fpEnv (fpFormat fmt) (fpUnpack (fpFormat fmt) s.cfg.nan2008 (s.valueFpr fs fmt))
      (fpUnpack (fpFormat fmt) s.cfg.nan2008 (s.valueFpr ft fmt)))
    (normal : s.fpDenormal fmt out.value = false) :
    FpEnds i s out.conds (fun t => TakesFormat s t fd fmt out.value ∧ FcsrAfter s.fcsr t.fcsr out.conds true
      ∧ KeepsAllBut [.fprs, .fcsr] s t) := by
  have run := he.trans (State.fpBinary_held usable i f suits hs ht)
  simp only [s.fpNumber_float float, ← hout, State.fpChecked_value, State.fpChecked_conds implemented, normal] at run
  exact fpEnds_of_result run

theorem fpBinary_unimplemented {f : FpEnv → FpFormat → FpVal → FpVal → FpOut}
    (he : exec i s = s.fpBinary i fmt f ft fs fd) (float : fmt ≠ .w)
    (suits : ∀ r ∈ [ft, fs, fd], fmtSuits fmt r = true) (hs : s.holds fs fmt = true) (ht : s.holds ft fmt = true)
    (h : s.fpUnimplementedOn i fmt (s.valueFpr fs fmt) (s.valueFpr ft fmt) = true
      ∨ s.fpDenormal fmt (f s.fpEnv (fpFormat fmt) (fpUnpack (fpFormat fmt) s.cfg.nan2008 (s.valueFpr fs fmt))
        (fpUnpack (fpFormat fmt) s.cfg.nan2008 (s.valueFpr ft fmt))).value = true) :
    TrapsUnimplemented i s := by
  have run := he.trans (State.fpBinary_held usable i f suits hs ht)
  simp only [s.fpNumber_float float] at run
  exact trapsUnimplemented_of_fpFinish (State.fpChecked_unimplemented h) run

/-! ## One operand (spec/49_fpu_arith.md R305, R311, R316 to R322) -/

theorem fpUnary_ends {f : BitVec 64 → FpOut} (he : exec i s = s.fpUnary i fmt dst f fs fd)
    (hfs : fmtSuits fmt fs = true) (hfd : fmtSuits dst fd = true) (hs : s.holds fs fmt = true)
    (implemented : s.fpUnimplementedOn i fmt (s.valueFpr fs fmt) 0 = false) {out : FpOut}
    (hout : f (s.valueFpr fs fmt) = out) {x : FpConds}
    (hx : x = if s.fpDenormal dst out.value then .justUnimplemented else out.conds) :
    FpEnds i s x (fun t => TakesFormat s t fd dst out.value ∧ FcsrAfter s.fcsr t.fcsr x true
      ∧ KeepsAllBut [.fprs, .fcsr] s t) := by
  have run := he.trans (State.fpUnary_held usable i f hfs hfd hs)
  simp only [hout, State.fpChecked_value, State.fpChecked_conds implemented, ← hx] at run
  exact fpEnds_of_result run

theorem fpUnary_unimplemented {f : BitVec 64 → FpOut} (he : exec i s = s.fpUnary i fmt dst f fs fd)
    (hfs : fmtSuits fmt fs = true) (hfd : fmtSuits dst fd = true) (hs : s.holds fs fmt = true)
    (h : s.fpUnimplementedOn i fmt (s.valueFpr fs fmt) 0 = true) : TrapsUnimplemented i s :=
  trapsUnimplemented_of_fpFinish (State.fpChecked_unimplemented (.inl h))
    (he.trans (State.fpUnary_held usable i f hfs hfd hs))

/-! ## Compares (spec/49_fpu_arith.md R312) -/

theorem fpCmp_unimplemented {cond : BitVec 4} {cc : Cc} (he : exec i s = s.fpCmp i fmt cond ft fs cc)
    (hfs : fmtSuits fmt fs = true) (hft : fmtSuits fmt ft = true) (hs : s.holds fs fmt = true)
    (ht : s.holds ft fmt = true)
    (h : s.fpUnimplementedOn i fmt (s.valueFpr fs fmt) (s.valueFpr ft fmt) = true) : TrapsUnimplemented i s :=
  trapsUnimplemented_of_fpFinish (if_pos h) (he.trans (State.fpCmp_held usable i cond cc hfs hft hs ht))

/-! ## Branches (spec/49_fpu_arith.md R323) -/

theorem fpBranch_ends (outside : s.inDelaySlot = false) {cc : Cc} {likely tf holds : Bool} {off : Half}
    (he : exec i s = s.fpBranch i cc likely tf off) (cond : (s.fpCc cc == tf) = holds) :
    let listed := s.fpListed i ((BitVec.ofBool (s.fpCc cc)).setWidth 64) 0 0
    (listed = false → Completes i s (fun t =>
        AfterBranch s t likely holds (branchTarget s.pc off) ∧ KeepsAllBut [] s t))
      ∧ (listed = true → TrapsUnimplemented i s) := by
  intro listed
  have run := (he.trans (fpBranch_outside outside ..)).trans (s.withCp1_usable _ usable)
  refine ⟨fun no => completes_of_branch outside (run.trans (if_neg (Bool.eq_false_iff.1 no))) cond,
    fun yes => trapsUnimplemented_of_fpFinish rfl (run.trans (if_pos yes))⟩

end

/-- Settles O39. -/
theorem fpuBranch : Obligations.FpuBranch := by
  intro s cc off usable outside bit
  simp only [List.forall_mem_cons, List.not_mem_nil, false_imp_iff, implies_true, and_true]
  exact ⟨⟨decode_of_encode rfl rfl, fpBranch_ends usable outside rfl (beq_false _)⟩,
    ⟨decode_of_encode rfl rfl, fpBranch_ends usable outside rfl (beq_false _)⟩,
    ⟨decode_of_encode rfl rfl, fpBranch_ends usable outside rfl (beq_true _)⟩,
    ⟨decode_of_encode rfl rfl, fpBranch_ends usable outside rfl (beq_true _)⟩⟩

/-- Settles O35. -/
theorem fpuBinary : Obligations.FpuBinary := by
  intro s ft fs fd usable
  have ends {i : Instr} {fmt : Fmt} {f : FpEnv → FpFormat → FpVal → FpVal → FpOut}
      (he : exec i s = s.fpBinary i fmt f ft fs fd) (float : fmt ≠ .w) suits hs ht implemented normal :=
    fpBinary_ends usable he float suits hs ht implemented rfl normal
  have single : Fmt.s ≠ .w := by decide
  have double : Fmt.d ≠ .w := by decide
  exact List.forall_iff_forall_mem.1 ⟨⟨decode_of_encode rfl rfl, ends rfl single⟩,
    ⟨decode_of_encode rfl rfl, ends rfl double⟩, ⟨decode_of_encode rfl rfl, ends rfl single⟩,
    ⟨decode_of_encode rfl rfl, ends rfl double⟩, ⟨decode_of_encode rfl rfl, ends rfl single⟩,
    ⟨decode_of_encode rfl rfl, ends rfl double⟩, ⟨decode_of_encode rfl rfl, ends rfl single⟩,
    ⟨decode_of_encode rfl rfl, ends rfl double⟩⟩

/-- Settles O41: each is an operation on two operands, a compare, or an operation on one operand. -/
theorem fpuUnimplemented : Obligations.FpuUnimplemented := by
  intro s ft fs fd cc usable traps
  refine ⟨?two, ?compare, ?one⟩
  case two =>
    have binary {i : Instr} {fmt : Fmt} {f : FpEnv → FpFormat → FpVal → FpVal → FpOut}
        (he : exec i s = s.fpBinary i fmt f ft fs fd) (float : fmt ≠ .w) := fpBinary_unimplemented usable he float
    have single : Fmt.s ≠ .w := by decide
    have double : Fmt.d ≠ .w := by decide
    exact List.forall_iff_forall_mem.1 ⟨binary rfl single, binary rfl double, binary rfl single, binary rfl double,
      binary rfl single, binary rfl double, binary rfl single, binary rfl double⟩
  case compare =>
    have cmp {i : Instr} {fmt : Fmt} {cond : BitVec 4} (he : exec i s = s.fpCmp i fmt cond ft fs cc) :=
      fpCmp_unimplemented usable he
    exact List.forall_iff_forall_mem.1 ⟨cmp rfl, cmp rfl, cmp rfl, cmp rfl, cmp rfl, cmp rfl, cmp rfl, cmp rfl,
      cmp rfl, cmp rfl, cmp rfl, cmp rfl, cmp rfl, cmp rfl, cmp rfl, cmp rfl, cmp rfl, cmp rfl, cmp rfl, cmp rfl,
      cmp rfl, cmp rfl, cmp rfl, cmp rfl, cmp rfl, cmp rfl, cmp rfl, cmp rfl, cmp rfl, cmp rfl, cmp rfl, cmp rfl⟩
  case one =>
    have sign {i : Instr} {fmt : Fmt} {g : Bool → Bool} (he : exec i s = s.fpSign i fmt g fs fd) :=
      fpUnary_unimplemented usable he
    have root {i : Instr} {fmt : Fmt} (he : exec i s = s.fpRoot i fmt fs fd) := fpUnary_unimplemented usable he
    have toW {i : Instr} {fmt : Fmt} {rm : BitVec 2} (he : exec i s = s.fpToW i fmt rm fs fd) :=
      fpUnary_unimplemented usable he
    have cvt {i : Instr} {fmt dst : Fmt} (he : exec i s = s.fpCvt i fmt dst fs fd) := fpUnary_unimplemented usable he
    exact List.forall_iff_forall_mem.1 ⟨sign rfl, sign rfl, sign rfl, sign rfl, root rfl, root rfl, toW rfl, toW rfl,
      toW rfl, toW rfl, toW rfl, toW rfl, toW rfl, toW rfl, toW rfl, toW rfl, cvt rfl, cvt rfl, cvt rfl, cvt rfl⟩

end Sys2Proof.Machine
end

section
/-! The formatted moves (spec/48_fpu_move.md R290 to R295). -/
namespace Sys2Proof.Machine

/-! ## The move that happens, and the one that does not -/

/-- A write of fd after the instruction is over leaves the other parts of the machine alone. -/
theorem storeFprAs_moved (s : State) (fd : Reg) (fmt : Fmt) (v : BitVec 64) (tag : FprTag) :
    Advances s ((s.retire []).storeFprAs fd fmt v tag)
      ∧ KeepsAllBut [.fprs] s ((s.retire []).storeFprAs fd fmt v tag) := by
  refine ⟨by simp [Advances], ?_⟩
  apply keepsAllBut_of_fields <;> simp

/-- Only the register written, or the pair it names, changes its value. -/
theorem State.readFpr_storeFprAs_outside (s : State) {fd r : Reg} {fmt : Fmt} (v : BitVec 64) (tag : FprTag)
    (h : r ≠ fd) (hp : fmt = .d → r ≠ fd ^^^ 1) : (s.storeFprAs fd fmt v tag).readFpr r = s.readFpr r := by
  cases fmt with
  | s | w => exact (s.readFpr_storeFpr32 fd r _ tag).trans (if_neg h)
  | d =>
    have other : r ≠ partner fd := hp rfl
    exact (s.readFpr_storeFpr64 fd r v tag).trans (by rw [if_neg other, if_neg h])

/-- A move that does not happen writes fd, with some value and tag. -/
theorem State.fpKeep_eq (s : State) (fmt : Fmt) (fd : Reg) :
    ∃ v tag, s.fpKeep fmt fd = .next ((s.retire []).storeFprAs fd fmt v tag) := by
  unfold State.fpKeep
  split
  · exact ⟨_, _, rfl⟩
  · exact ⟨_, _, rfl⟩

/-- How a formatted move ends whose condition is holds: with the trap of R302, moved, or not. -/
theorem fpMoveIf_ends {s : State} (usable : s.cp1Usable = true) {i : Instr} {fmt : Fmt} {b c : BitVec 64}
    {moves holds : Bool} {fs fd : Reg} (he : exec i s = s.fpMoveIf i fmt b c moves fs fd) (cond : moves = holds)
    (hfs : fmtSuits fmt fs = true) (hfd : fmtSuits fmt fd = true) :
    let listed := s.fpListed i (s.fpOperand .fprFirst fs fmt) b c
    (listed = true → TrapsUnimplemented i s)
      ∧ (listed = false → holds = true → s.holds fs fmt = true → Completes i s (fun t =>
          TakesFormat s t fd fmt (s.valueFpr fs fmt) ∧ Advances s t ∧ KeepsAllBut [.fprs] s t))
      ∧ (listed = false → holds = false →
        (s.holds fd fmt = true → Completes i s (fun t =>
            TakesFormat s t fd fmt (s.valueFpr fd fmt) ∧ Advances s t ∧ KeepsAllBut [.fprs] s t))
        ∧ Completes i s (fun t => Advances s t ∧ KeepsAllBut [.fprs] s t
            ∧ ∀ r, r ≠ fd → (fmt = .d → r ≠ fd ^^^ 1) → t.readFpr r = s.readFpr r)) := by
  intro listed
  subst cond
  have run := (he.trans (s.withCp1_usable _ usable)).trans (s.withEven_suits _ _ _ (by simp [hfs, hfd]))
  have unlisted (no : listed = false) := run.trans (if_neg (Bool.eq_false_iff.1 no))
  refine ⟨fun yes => trapsUnimplemented_of_fpFinish rfl (run.trans (if_pos yes)), fun no yes held => ?moved,
    fun no stays => ⟨fun held => ?kept, ?written⟩⟩
  case moved =>
    have run := (unlisted no).trans (if_pos yes)
    rw [State.fpMove, s.fpSpoil_held _ _ _ held, held] at run
    exact ⟨_, run, State.storeFpr_takes (by simp) (by simp) .., storeFprAs_moved s fd fmt _ _⟩
  all_goals have run := (unlisted no).trans (if_neg (Bool.eq_false_iff.1 stays))
  case kept =>
    rw [State.fpKeep, if_pos held] at run
    exact ⟨_, run, State.storeFpr_takes (by simp) (by simp) .., storeFprAs_moved s fd fmt _ _⟩
  case written =>
    obtain ⟨v, tag, kept⟩ := s.fpKeep_eq fmt fd
    obtain ⟨advances, frame⟩ := storeFprAs_moved s fd fmt v tag
    exact ⟨_, run.trans kept, advances, frame, fun r h hp =>
      (State.readFpr_storeFprAs_outside _ v tag h hp).trans (by simp)⟩

/-- Settles O34: each is a move on its condition. -/
theorem fpuMoves : Obligations.FpuMoves := by
  intro s rt fs fd cc usable v bit cv rv old
  have held (fmt : Fmt) := And.intro (s.fpOperand_held .fprFirst fs fmt) (s.fpOperand_held .fprSecond fd fmt)
  have move {i : Instr} {fmt : Fmt} {b c : BitVec 64} {moves holds : Bool}
      (he : exec i s = s.fpMoveIf i fmt b c moves fs fd) (cond : moves = holds) :=
    And.intro (held fmt).1 (And.intro (held fmt).2 (fpMoveIf_ends usable he cond))
  exact List.forall_iff_forall_mem.1 ⟨⟨decode_of_encode rfl rfl, move rfl rfl⟩, ⟨decode_of_encode rfl rfl, move rfl rfl⟩,
    ⟨decode_of_encode rfl rfl, move rfl (beq_false _)⟩, ⟨decode_of_encode rfl rfl, move rfl (beq_false _)⟩,
    ⟨decode_of_encode rfl rfl, move rfl (beq_true _)⟩, ⟨decode_of_encode rfl rfl, move rfl (beq_true _)⟩,
    ⟨decode_of_encode rfl rfl, move rfl rfl⟩, ⟨decode_of_encode rfl rfl, move rfl rfl⟩,
    ⟨decode_of_encode rfl rfl, move rfl rfl⟩, ⟨decode_of_encode rfl rfl, move rfl rfl⟩⟩

end Sys2Proof.Machine
end

section
/-! The compares (spec/49_fpu_arith.md R312 to R314): the order of two operands as numbers. -/
namespace Sys2Proof.Machine

/-! ## Numbers on a common scale -/

/-- A magnitude with its sign. -/
def signedInt (neg : Bool) (n : Nat) : Int := if neg then -(n : Int) else n

/-- A finite operand as an integer number of units 2 ^ e, where its own unit is no smaller. -/
theorem FpVal.value_eq_scaled (neg : Bool) (m : Nat) {k e : Int} (h : e ≤ k) :
    (FpVal.fin neg m k).value = (signedInt neg (m * 2 ^ (k - e).toNat) : ℚ) * 2 ^ e := by
  have scale : (2 : ℚ) ^ k = 2 ^ (k - e).toNat * 2 ^ e := by
    rw [← zpow_natCast, ← zpow_add₀ two_ne_zero, Int.toNat_of_nonneg (by omega), Int.sub_add_cancel]
  rw [FpVal.value, scale, signedInt]
  cases neg <;> push_cast <;> simp <;> ring

/-- The order of two finite operands is that of their numbers. -/
theorem fpOrder_fin (na nb : Bool) (ma mb : Nat) (ea eb : Int) :
    fpOrder (.fin na ma ea) (.fin nb mb eb)
      = ⟨decide ((FpVal.fin na ma ea).value < (FpVal.fin nb mb eb).value),
          decide ((FpVal.fin na ma ea).value = (FpVal.fin nb mb eb).value), false⟩ := by
  have unit : (0 : ℚ) < 2 ^ min ea eb := by positivity
  rw [FpVal.value_eq_scaled na ma (min_le_left ea eb), FpVal.value_eq_scaled nb mb (min_le_right ea eb)]
  simp only [mul_lt_mul_iff_left₀ unit, mul_left_inj' unit.ne', Int.cast_lt, Int.cast_inj]
  rfl

/-- The order of two operands, on the line of numbers with its two ends (spec/49_fpu_arith.md R312). -/
theorem fpOrder_eq (a b : FpVal) :
    fpOrder a b =
      let unordered := a.isNan || b.isNan
      ⟨!unordered && decide (a.extended < b.extended), !unordered && decide (a.extended = b.extended), unordered⟩ := by
  cases a with
  | nan q => rfl
  | inf na =>
    cases b with
    | nan q => rfl
    | inf nb => cases na <;> cases nb <;> simp [fpOrder, FpVal.isNan, FpVal.extended]
    | fin nb mb eb => cases na <;> simp [fpOrder, FpVal.isNan, FpVal.extended]
  | fin na ma ea =>
    cases b with
    | nan q => rfl
    | inf nb =>
      have below : (FpVal.fin na ma ea).extended < (FpVal.inf false).extended :=
        WithBot.coe_lt_coe.2 (WithTop.coe_lt_top _)
      cases nb
      · simp [fpOrder, FpVal.isNan, below, below.ne]
      · simp [fpOrder, FpVal.isNan, FpVal.extended]
    | fin nb mb eb =>
      rw [fpOrder_fin]
      simp [FpVal.isNan, FpVal.extended]

/-- The condition that a compare finds, and whether it is Invalid Operation (spec/49_fpu_arith.md R312 to R314). -/
theorem fpCompare_eq (cond : BitVec 4) (a b : FpVal) :
    fpCompare cond a b =
      let unordered := a.isNan || b.isNan
      ((cond.getLsbD 2 && !unordered && decide (a.extended < b.extended))
          || (cond.getLsbD 1 && !unordered && decide (a.extended = b.extended)) || (cond.getLsbD 0 && unordered),
        { FpConds.none with invalid := a.isSignalling || b.isSignalling || (cond.getLsbD 3 && unordered) }) := by
  rw [fpCompare, fpOrder_eq]
  simp only [Bool.and_assoc]

/-! ## How a compare ends -/

/-- The condition code takes the result, Cause and Flags the conditions. -/
theorem fpCmp_ends {s : State} (usable : s.cp1Usable = true) {i : Instr} {fmt : Fmt} {cond : BitVec 4} {ft fs : Reg}
    {cc : Cc} (he : exec i s = s.fpCmp i fmt cond ft fs cc) (float : fmt ≠ .w) (hfs : fmtSuits fmt fs = true)
    (hft : fmtSuits fmt ft = true) (hs : s.holds fs fmt = true) (ht : s.holds ft fmt = true)
    (implemented : s.fpUnimplementedOn i fmt (s.valueFpr fs fmt) (s.valueFpr ft fmt) = false)
    {holds : Bool} {x : FpConds}
    (hout : fpCompare cond (fpUnpack (fpFormat fmt) s.cfg.nan2008 (s.valueFpr fs fmt))
      (fpUnpack (fpFormat fmt) s.cfg.nan2008 (s.valueFpr ft fmt)) = (holds, x)) :
    FpEnds i s x (fun t => KeepsAllBut [.fcsr] s t
      ∧ ∃ c, FcsrAfter s.fcsr c x true ∧ t.fcsr = putBit c (ccBit cc) holds) := by
  have run := he.trans (State.fpCmp_held usable i cond cc hfs hft hs ht)
  simp only [s.fpNumber_float float, hout, implemented, Bool.false_eq_true, if_false] at run
  refine fpEnds_of_fpFinish i s x _ _ run ⟨⟨?_, _, fcsrAfter_orFlags s.fcsr x, by simp [State.setFpCc]⟩, ?_⟩
  · apply keepsAllBut_of_fields <;> simp
  · simp [Advances]

/-- Settles O38. -/
theorem fpuCompare : Obligations.FpuCompare := by
  intro s ft fs cc usable
  have ends {i : Instr} {fmt : Fmt} {cond : BitVec 4} (he : exec i s = s.fpCmp i fmt cond ft fs cc)
      (float : fmt ≠ .w) hfs hft hs ht implemented :=
    fpCmp_ends usable he float hfs hft hs ht implemented (fpCompare_eq cond _ _)
  have single {i : Instr} {w : Word} {cond : BitVec 4} (he : exec i s = s.fpCmp i .s cond ft fs cc)
      (hw : encode i = w) (wf : i.WellFormed = true) := And.intro (decode_of_encode hw wf) (ends he (by decide))
  have double {i : Instr} {w : Word} {cond : BitVec 4} (he : exec i s = s.fpCmp i .d cond ft fs cc)
      (hw : encode i = w) (wf : i.WellFormed = true) := And.intro (decode_of_encode hw wf) (ends he (by decide))
  simp only [List.forall_mem_cons, List.not_mem_nil, false_imp_iff, implies_true, and_true]
  exact ⟨single rfl rfl rfl, double rfl rfl rfl, single rfl rfl rfl, double rfl rfl rfl, single rfl rfl rfl,
    double rfl rfl rfl, single rfl rfl rfl, double rfl rfl rfl, single rfl rfl rfl, double rfl rfl rfl,
    single rfl rfl rfl, double rfl rfl rfl, single rfl rfl rfl, double rfl rfl rfl, single rfl rfl rfl,
    double rfl rfl rfl, single rfl rfl rfl, double rfl rfl rfl, single rfl rfl rfl, double rfl rfl rfl,
    single rfl rfl rfl, double rfl rfl rfl, single rfl rfl rfl, double rfl rfl rfl, single rfl rfl rfl,
    double rfl rfl rfl, single rfl rfl rfl, double rfl rfl rfl, single rfl rfl rfl, double rfl rfl rfl,
    single rfl rfl rfl, double rfl rfl rfl⟩

end Sys2Proof.Machine
end

section
/-! The patterns of the binary formats (spec/49_fpu_arith.md R300, R303): a pattern reads back as the fields it was built
from; with it, the operations on NaNs, infinities and zeros. -/
namespace Sys2Proof.Machine

/-! ## Formats -/

/-- The widths make a binary format of at most 64 bits, with quiet and signalling NaNs. -/
structure FpFormat.Sound (f : FpFormat) : Prop where
  /-- There are subnormal and normal numbers, and an exponent for infinities and NaNs. -/
  exponents : 2 ≤ f.expBits
  /-- A NaN's fraction has a first bit and a payload. -/
  fractions : 2 ≤ f.fracBits
  /-- A pattern fits. -/
  fits : f.expBits + f.fracBits < 64

theorem FpFormat.sound_of_mem {f : FpFormat} (h : f ∈ [FpFormat.single, FpFormat.double]) : f.Sound := by
  rcases List.mem_pair.1 h with rfl | rfl
  · exact ⟨by decide, by decide, by decide⟩
  · exact ⟨by decide, by decide, by decide⟩

section
variable {f : FpFormat}

/-- The exponents of normal numbers reach from 1 to 2 * bias. -/
theorem FpFormat.Sound.maxExp_eq (h : f.Sound) : f.maxExp = 2 * f.bias + 1 := by
  obtain ⟨e, he⟩ := Nat.exists_eq_add_of_le h.exponents
  have := Nat.one_le_two_pow (n := e + 1)
  have := Nat.pow_succ (n := 2) (m := e + 1)
  rw [FpFormat.maxExp, FpFormat.bias, he, show 2 + e - 1 = e + 1 by omega, show 2 + e = e + 1 + 1 by omega]
  omega

theorem FpFormat.Sound.one_le_bias (h : f.Sound) : 1 ≤ f.bias := by
  obtain ⟨e, he⟩ := Nat.exists_eq_add_of_le h.exponents
  have := Nat.one_le_two_pow (n := e)
  have := Nat.pow_succ (n := 2) (m := e)
  rw [FpFormat.bias, he, show 2 + e - 1 = e + 1 by omega]
  omega

theorem FpFormat.maxExp_lt (f : FpFormat) : f.maxExp < 2 ^ f.expBits := by
  have := Nat.one_le_two_pow (n := f.expBits)
  rw [FpFormat.maxExp]
  omega

/-! ## Fields -/

/-- A pattern as a number: sign, exponent and fraction, from the highest bit down. -/
theorem toNat_fpPack (hf : f.Sound) (neg : Bool) {ex frac : Nat} (hex : ex ≤ f.maxExp) (hfrac : frac < 2 ^ f.fracBits) :
    (fpPack f neg ex frac).toNat = (neg.toNat * 2 ^ f.expBits + ex) * 2 ^ f.fracBits + frac := by
  have sign : (if neg then 2 ^ (f.expBits + f.fracBits) else 0) = neg.toNat * 2 ^ f.expBits * 2 ^ f.fracBits := by
    cases neg <;> simp [pow_add]
  have high : neg.toNat * 2 ^ f.expBits + ex + 1 ≤ 2 ^ (f.expBits + 1) := by
    have := f.maxExp_lt
    rw [pow_succ]
    cases neg <;> simp <;> omega
  have below : (neg.toNat * 2 ^ f.expBits + ex) * 2 ^ f.fracBits + frac < 2 ^ 64 := by
    calc (neg.toNat * 2 ^ f.expBits + ex) * 2 ^ f.fracBits + frac
        < (neg.toNat * 2 ^ f.expBits + ex + 1) * 2 ^ f.fracBits := by rw [Nat.add_one_mul]; omega
      _ ≤ 2 ^ (f.expBits + 1) * 2 ^ f.fracBits := Nat.mul_le_mul_right _ high
      _ = 2 ^ (f.expBits + 1 + f.fracBits) := (pow_add ..).symm
      _ ≤ 2 ^ 64 := Nat.pow_le_pow_right (by omega) (by have := hf.fits; omega)
  rw [fpPack, BitVec.toNat_ofNat, sign, ← Nat.add_mul, Nat.mod_eq_of_lt below]

/-- What a pattern with these fields stands for (spec/49_fpu_arith.md R300). -/
theorem fpUnpack_fpPack (hf : f.Sound) (n neg : Bool) {ex frac : Nat} (hex : ex ≤ f.maxExp)
    (hfrac : frac < 2 ^ f.fracBits) :
    fpUnpack f n (fpPack f neg ex frac) =
      if ex = f.maxExp then
        if frac = 0 then .inf neg else .nan (decide (frac / 2 ^ (f.fracBits - 1) = 1) != n)
      else if ex = 0 then .fin neg frac (1 - (f.bias : Int) - f.fracBits)
      else .fin neg (2 ^ f.fracBits + frac) ((ex : Int) - f.bias - f.fracBits) := by
  have upper : (fpPack f neg ex frac).toNat / 2 ^ f.fracBits = neg.toNat * 2 ^ f.expBits + ex := by
    rw [toNat_fpPack hf neg hex hfrac, Nat.add_comm, Nat.add_mul_div_right _ _ (by positivity),
      Nat.div_eq_of_lt hfrac, Nat.zero_add]
  have fraction : (fpPack f neg ex frac).toNat % 2 ^ f.fracBits = frac := by
    rw [toNat_fpPack hf neg hex hfrac, Nat.add_comm, Nat.add_mul_mod_self_right, Nat.mod_eq_of_lt hfrac]
  have below : ex < 2 ^ f.expBits := hex.trans_lt f.maxExp_lt
  have exponent : (fpPack f neg ex frac).toNat / 2 ^ f.fracBits % 2 ^ f.expBits = ex := by
    rw [upper, Nat.add_comm, Nat.add_mul_mod_self_right, Nat.mod_eq_of_lt below]
  have sign : (fpPack f neg ex frac).toNat / 2 ^ (f.expBits + f.fracBits) = neg.toNat := by
    rw [pow_add, Nat.mul_comm, ← Nat.div_div_eq_div_mul, upper, Nat.add_comm,
      Nat.add_mul_div_right _ _ (by positivity), Nat.div_eq_of_lt below, Nat.zero_add]
  have signBit : decide (neg.toNat % 2 = 1) = neg := by cases neg <;> rfl
  simp only [fpUnpack, fraction, exponent, sign, signBit]

theorem fpUnpack_fpInf (hf : f.Sound) (n neg : Bool) : fpUnpack f n (fpInf f neg) = .inf neg := by
  rw [fpInf, fpUnpack_fpPack hf n neg le_rfl (by positivity), if_pos rfl, if_pos rfl]

theorem fpUnpack_fpZero (hf : f.Sound) (n neg : Bool) :
    fpUnpack f n (fpZero f neg) = .fin neg 0 (1 - (f.bias : Int) - f.fracBits) := by
  have finite : ¬ 0 = f.maxExp := by rw [hf.maxExp_eq]; omega
  rw [fpZero, fpUnpack_fpPack hf n neg (Nat.zero_le _) (by positivity), if_neg finite, if_pos rfl]

/-- The quiet NaN drawn is one, under either convention (spec/49_fpu_arith.md R300(a), (b)). -/
theorem fpUnpack_fpQuietNan (hf : f.Sound) (n : Bool) (draw : BitVec 64) :
    fpUnpack f n (fpQuietNan f n draw) = .nan false := by
  have half : 2 ^ f.fracBits = 2 ^ (f.fracBits - 1) * 2 := by
    rw [← pow_succ, Nat.sub_add_cancel (by have := hf.fractions; omega)]
  have payload := Nat.mod_lt draw.toNat (Nat.two_pow_pos (f.fracBits - 1))
  have room : 2 ≤ 2 ^ (f.fracBits - 1) := Nat.le_self_pow (by have := hf.fractions; omega) 2
  generalize hp : draw.toNat % 2 ^ (f.fracBits - 1) = p at payload
  have quiet (frac : Nat) (h0 : frac ≠ 0) (hn : frac / 2 ^ (f.fracBits - 1) = n.toNat) (hlt : frac < 2 ^ f.fracBits) :
      fpUnpack f n (fpPack f (draw.getLsbD 63) f.maxExp frac) = .nan false := by
    rw [fpUnpack_fpPack hf n _ le_rfl hlt, if_pos rfl, if_neg h0, hn]
    cases n <;> rfl
  simp only [fpQuietNan, hp]
  cases n with
  | true =>
    refine quiet _ (by simp) ?_ (by simp; omega)
    simp [Nat.add_div_left p (Nat.two_pow_pos (f.fracBits - 1)), Nat.div_eq_of_lt payload]
  | false =>
    simp only [Bool.false_eq_true, if_false]
    split
    · exact quiet 1 (by simp) (Nat.div_eq_of_lt (by omega)) (by omega)
    · exact quiet p ‹_› (Nat.div_eq_of_lt payload) (by omega)

end

/-! ## NaNs as operands (spec/49_fpu_arith.md R303) -/

/-- An operation on two operands of which one is a NaN: Invalid Operation when one of them signals. -/
theorem binary_nan (env : FpEnv) (f : FpFormat) {a b : FpVal} (h : a.isNan = true ∨ b.isNan = true) :
    ∀ g ∈ [fpAdd, fpSub, fpMul, fpDiv],
      g env f a b = fpNanOut env f { FpConds.none with invalid := a.isSignalling || b.isSignalling } := by
  simp only [List.forall_mem_cons, List.not_mem_nil, false_imp_iff, implies_true, and_true]
  cases a with
  | nan s => cases b <;> simp [fpAdd, fpSub, fpMul, fpDiv, FpVal.negate, FpVal.isSignalling]
  | inf | fin =>
    cases b with
    | nan s => exact ⟨rfl, rfl, rfl, rfl⟩
    | inf | fin => simp [FpVal.isNan] at h

/-- Settles O44. -/
theorem fpSpecialOperands : Obligations.FpSpecialOperands := by
  intro f hf env a b na nb m k e l nan exact'
  have sound := FpFormat.sound_of_mem hf
  refine ⟨fun n d => fpUnpack_fpQuietNan sound n d, fun n => ⟨fpUnpack_fpInf sound n na, fpUnpack_fpZero sound n na⟩,
    binary_nan env f, fun ha => ?oneNan, rfl, ?subInf, rfl, rfl, rfl, rfl, rfl, ?mulInf, rfl, rfl, rfl, rfl, rfl, rfl, rfl,
    rfl, rfl⟩
  case oneNan =>
    cases a with
    | nan s => exact ⟨rfl, rfl⟩
    | inf | fin => cases ha
  case subInf => cases na <;> cases nb <;> rfl
  case mulInf =>
    simp only [List.forall_mem_cons, List.not_mem_nil, false_imp_iff, implies_true, and_true]
    refine ⟨rfl, ?_⟩
    cases na <;> cases nb <;> rfl

end Sys2Proof.Machine
end

section
/-! ABS, NEG, SQRT, CVT.D and CVT.S (spec/49_fpu_arith.md R305, R306, R311, R316, R317): what ABS and NEG do to the bits. -/
namespace Sys2Proof.Machine

/-! ## The sign bit -/

section
variable {f : FpFormat}

/-- Clearing the sign bit. -/
theorem fpPack_clear_sign {v : BitVec 64} (hk : f.expBits + f.fracBits < 64) :
    fpPack f false 0 (v.toNat % 2 ^ (f.expBits + f.fracBits))
      = v &&& BitVec.ofNat 64 (2 ^ (f.expBits + f.fracBits) - 1) := by
  have mask : 2 ^ (f.expBits + f.fracBits) - 1 < 2 ^ 64 := by
    have := Nat.pow_lt_pow_right (a := 2) (by omega) hk
    omega
  apply BitVec.eq_of_toNat_eq
  rw [BitVec.toNat_and, BitVec.toNat_ofNat, Nat.mod_eq_of_lt mask, Nat.and_two_pow_sub_one_eq_mod, fpPack,
    BitVec.toNat_ofNat]
  have := Nat.mod_le v.toNat (2 ^ (f.expBits + f.fracBits))
  simp
  omega

/-- Flipping one bit of a number that has no higher one. -/
theorem xor_two_pow {n k : Nat} (hn : n < 2 ^ (k + 1)) :
    n ^^^ 2 ^ k = (if !(decide (n / 2 ^ k % 2 = 1)) then 2 ^ k else 0) + n % 2 ^ k := by
  have low : (n ^^^ 2 ^ k) % 2 ^ k = n % 2 ^ k := by rw [Nat.xor_mod_two_pow, Nat.mod_self, Nat.xor_zero]
  have high : (n ^^^ 2 ^ k) / 2 ^ k = n / 2 ^ k ^^^ 1 := by
    rw [Nat.xor_div_two_pow, Nat.div_self (by positivity)]
  have bit : n / 2 ^ k < 2 := Nat.div_lt_of_lt_mul (by rwa [pow_succ] at hn)
  rw [← Nat.div_add_mod (n ^^^ 2 ^ k) (2 ^ k), low, high]
  generalize n / 2 ^ k = b at bit
  interval_cases b <;> simp

/-- Inverting the sign bit. -/
theorem fpPack_flip_sign {v : BitVec 64} (hv : v.toNat < 2 ^ (f.expBits + f.fracBits + 1))
    (hk : f.expBits + f.fracBits < 64) :
    fpPack f (!decide (v.toNat / 2 ^ (f.expBits + f.fracBits) % 2 = 1)) 0 (v.toNat % 2 ^ (f.expBits + f.fracBits))
      = v ^^^ BitVec.ofNat 64 (2 ^ (f.expBits + f.fracBits)) := by
  apply BitVec.eq_of_toNat_eq
  rw [BitVec.toNat_xor, BitVec.toNat_ofNat, Nat.mod_eq_of_lt (Nat.pow_lt_pow_right (by omega) hk), xor_two_pow hv,
    fpPack, BitVec.toNat_ofNat, Nat.zero_mul, Nat.add_zero, ← xor_two_pow hv, Nat.mod_eq_of_lt]
  exact Nat.xor_lt_two_pow v.isLt (Nat.pow_lt_pow_right (by omega) hk)

end

/-- A value of a format takes no more than its bits. -/
theorem State.valueFpr_lt (s : State) (r : Reg) {fmt : Fmt} (h : fmt ≠ .w) :
    (s.valueFpr r fmt).toNat < 2 ^ ((fpFormat fmt).expBits + (fpFormat fmt).fracBits + 1) := by
  cases fmt with
  | s =>
    have word : (s.valueFpr r .s).toNat = (s.readFpr r).toNat % 2 ^ 64 := BitVec.toNat_setWidth ..
    exact word ▸ (Nat.mod_le _ _).trans_lt (s.readFpr r).isLt
  | d => exact (s.valueFpr r .d).isLt
  | w => exact absurd rfl h

/-! ## ABS and NEG -/

/-- ABS and NEG of a number or an infinity put the sign's bit; of a NaN they give the quiet NaN drawn
(spec/49_fpu_arith.md R305, log 45). -/
theorem fpSignOp_eq {env : FpEnv} {f : FpFormat} {quiet : Bool} {g : Bool → Bool} {v r : BitVec 64}
    (hr : fpPack f (g (decide (v.toNat / 2 ^ (f.expBits + f.fracBits) % 2 = 1))) 0
      (v.toNat % 2 ^ (f.expBits + f.fracBits)) = r) :
    fpSignOp env f quiet g v =
      match fpUnpack f env.nan2008 v with
      | .nan q => ⟨{ FpConds.none with invalid := q || quiet }, fpQuietNan f env.nan2008 env.nanDraw⟩
      | _ => ⟨.none, r⟩ := by
  subst hr
  unfold fpSignOp
  cases fpUnpack f env.nan2008 v <;> rfl

/-- Settles O36. -/
theorem fpuOneOperand : Obligations.FpuOneOperand := by
  intro s fs fd usable n env sign int
  have abs {i : Instr} {w : Word} {fmt : Fmt} (he : exec i s = s.fpSign i fmt (fun _ => false) fs fd)
      (hw : encode i = w) (wf : i.WellFormed = true) (hk : (fpFormat fmt).expBits + (fpFormat fmt).fracBits < 64) :=
    And.intro (decode_of_encode hw wf) fun hfs hfd hs implemented =>
      fpUnary_ends usable he hfs hfd hs implemented (fpSignOp_eq (fpPack_clear_sign hk)) rfl
  have neg {i : Instr} {w : Word} {fmt : Fmt} (he : exec i s = s.fpSign i fmt (!·) fs fd) (hw : encode i = w)
      (wf : i.WellFormed = true) (float : fmt ≠ .w) (hk : (fpFormat fmt).expBits + (fpFormat fmt).fracBits < 64) :=
    And.intro (decode_of_encode hw wf) fun hfs hfd hs implemented =>
      fpUnary_ends usable he hfs hfd hs implemented (fpSignOp_eq (fpPack_flip_sign (s.valueFpr_lt fs float) hk)) rfl
  have root {i : Instr} {w : Word} {fmt : Fmt} (he : exec i s = s.fpRoot i fmt fs fd) (hw : encode i = w)
      (wf : i.WellFormed = true) :=
    And.intro (decode_of_encode hw wf) fun hfs hfd hs implemented =>
      fpUnary_ends usable he hfs hfd hs implemented rfl rfl
  have cvt {i : Instr} {w : Word} {fmt dst : Fmt} (he : exec i s = s.fpCvt i fmt dst fs fd) (hw : encode i = w)
      (wf : i.WellFormed = true) :=
    And.intro (decode_of_encode hw wf) fun hfs hfd hs implemented =>
      fpUnary_ends usable he hfs hfd hs implemented rfl rfl
  simp only [List.forall_mem_cons, List.not_mem_nil, false_imp_iff, implies_true, and_true]
  exact ⟨abs rfl rfl rfl (by decide), abs rfl rfl rfl (by decide), neg rfl rfl rfl (by decide) (by decide),
    neg rfl rfl rfl (by decide) (by decide), root rfl rfl rfl, root rfl rfl rfl, cvt rfl rfl rfl, cvt rfl rfl rfl,
    cvt rfl rfl rfl, cvt rfl rfl rfl⟩

end Sys2Proof.Machine
end

section
/-! Rounding a magnitude to an integer in a mode (spec/10_state.md R54, spec/49_fpu_arith.md R300): roundShift as a relation
on numbers; with it the conversions to W (R318 to R322, R328). -/
namespace Sys2Proof.Machine

section
variable {α : Type} [Field α] [LinearOrder α] [IsStrictOrderedRing α]

/-! ## The relation -/

/-- The mode takes the magnitude z, from q to below q + 1, up to q + 1. -/
def GoesUp (rm : BitVec 2) (neg : Bool) (z : α) (q : ℕ) : Prop :=
  match rm.toNat with
  | 0 => (q : α) + 1 / 2 < z ∨ (z = q + 1 / 2 ∧ q % 2 = 1)
  | 1 => False
  | 2 => neg = false ∧ (q : α) < z
  | _ => neg = true ∧ (q : α) < z

/-- n is the magnitude z rounded to an integer, where the number has this sign. -/
def RoundsMag (rm : BitVec 2) (neg : Bool) (z : α) (n : ℕ) : Prop :=
  ∃ q : ℕ, (q : α) ≤ z ∧ z < q + 1 ∧ ((GoesUp rm neg z q ∧ n = q + 1) ∨ (¬ GoesUp rm neg z q ∧ n = q))

variable {rm : BitVec 2} {neg : Bool} {z : α} {q n : ℕ}

/-- One case per rounding mode. -/
theorem forall_mode {P : BitVec 2 → Prop} (h0 : P 0) (h1 : P 1) (h2 : P 2) (h3 : P 3) (rm : BitVec 2) : P rm := by
  have cases : rm = 0 ∨ rm = 1 ∨ rm = 2 ∨ rm = 3 := by revert rm; decide
  rcases cases with rfl | rfl | rfl | rfl
  · exact h0
  · exact h1
  · exact h2
  · exact h3

theorem GoesUp.lt (h : GoesUp rm neg z q) : (q : α) < z := by
  revert h
  refine forall_mode (P := fun rm => GoesUp rm neg z q → (q : α) < z) ?_ (fun h => h.elim) (fun h => h.2)
    (fun h => h.2) rm
  rintro (h | ⟨h, -⟩) <;> linarith

/-- An integer stays. -/
theorem RoundsMag.eq_of_cast {k : ℕ} (h : RoundsMag rm neg (k : α) n) : n = k := by
  obtain ⟨q, hle, hlt, ⟨up, rfl⟩ | ⟨-, rfl⟩⟩ := h
  · have : q < k := by exact_mod_cast up.lt
    have : k < q + 1 := by exact_mod_cast hlt
    omega
  · have : n ≤ k := by exact_mod_cast hle
    have : k < n + 1 := by exact_mod_cast hlt
    omega

/-- The dropped part of a shift, as a part of one unit. -/
theorem cast_shift (N d : ℕ) : (N : α) / 2 ^ d = (N / 2 ^ d : ℕ) + (N % 2 ^ d : ℕ) / (2 : α) ^ d := by
  have split : (N : α) = 2 ^ d * (N / 2 ^ d : ℕ) + (N % 2 ^ d : ℕ) := by exact_mod_cast (Nat.div_add_mod N (2 ^ d)).symm
  rw [div_eq_iff (by positivity), add_mul, div_mul_cancel₀ _ (by positivity)]
  linarith

theorem shift_exact_iff (N d : ℕ) : N % 2 ^ d = 0 ↔ ((N / 2 ^ d : ℕ) : α) = N / 2 ^ d := by
  rw [cast_shift N d, left_eq_add, div_eq_zero_iff, Nat.cast_eq_zero]
  simp

/-- roundsUp decides as the numbers say. -/
theorem roundsUp_shift (rm : BitVec 2) (neg : Bool) (N d : ℕ) :
    roundsUp rm neg (decide (N / 2 ^ d % 2 = 1)) (2 * (N % 2 ^ d)) (2 ^ d) = true
      ↔ GoesUp rm neg ((N : α) / 2 ^ d) (N / 2 ^ d) := by
  have unit : (0 : α) < 2 ^ d := by positivity
  have more : 2 ^ d < 2 * (N % 2 ^ d) ↔ 1 / 2 < (N % 2 ^ d : ℕ) / (2 : α) ^ d := by
    rw [lt_div_iff₀ unit, one_div, inv_mul_lt_iff₀ two_pos]
    exact_mod_cast Iff.rfl
  have half : 2 * (N % 2 ^ d) = 2 ^ d ↔ (N % 2 ^ d : ℕ) / (2 : α) ^ d = 1 / 2 := by
    rw [div_eq_div_iff unit.ne' two_ne_zero, one_mul, mul_comm]
    exact_mod_cast Iff.rfl
  have some_left : 0 < 2 * (N % 2 ^ d) ↔ 0 < (N % 2 ^ d : ℕ) / (2 : α) ^ d := by
    rw [div_pos_iff_of_pos_right unit, Nat.cast_pos]
    omega
  rw [cast_shift N d]
  refine forall_mode (P := fun rm => roundsUp rm neg _ _ _ = true ↔ GoesUp rm neg _ _) ?_ ?_ ?_ ?_ rm
  · simp [roundsUp, GoesUp, more, half]
  · simp [roundsUp, GoesUp]
  · simp [roundsUp, GoesUp, some_left]
  · simp [roundsUp, GoesUp, some_left]

theorem roundShift_roundsMag (rm : BitVec 2) (neg : Bool) (N d : ℕ) :
    RoundsMag rm neg ((N : α) / 2 ^ d) (roundShift rm neg N d) := by
  have below : ((N % 2 ^ d : ℕ) : α) / 2 ^ d < 1 := by
    rw [div_lt_one (by positivity)]
    exact_mod_cast Nat.mod_lt N (by positivity)
  have least : 0 ≤ ((N % 2 ^ d : ℕ) : α) / 2 ^ d := by positivity
  refine ⟨N / 2 ^ d, by linarith [cast_shift (α := α) N d], by linarith [cast_shift (α := α) N d], ?_⟩
  rw [← roundsUp_shift, roundShift]
  by_cases up : roundsUp rm neg (decide (N / 2 ^ d % 2 = 1)) (2 * (N % 2 ^ d)) (2 ^ d) = true
  · exact .inl ⟨up, if_pos up⟩
  · exact .inr ⟨up, if_neg up⟩

/-- A shift loses nothing exactly when rounding gives the number itself. -/
theorem roundShift_exact_iff (rm : BitVec 2) (neg : Bool) (N d : ℕ) :
    N % 2 ^ d = 0 ↔ ((roundShift rm neg N d : ℕ) : α) = N / 2 ^ d := by
  constructor
  · intro exact
    have whole := (shift_exact_iff (α := α) N d).1 exact
    have rounds := roundShift_roundsMag (α := α) rm neg N d
    rw [← whole] at rounds
    rw [rounds.eq_of_cast, whole]
  · intro exact
    have whole : ((roundShift rm neg N d * 2 ^ d : ℕ) : α) = N := by
      rw [Nat.cast_mul, exact, Nat.cast_pow, Nat.cast_ofNat, div_mul_cancel₀ _ (by positivity)]
    rw [← Nat.cast_injective whole, Nat.mul_mod_left]

end

/-! ## To an integer, as R319 to R321 and R328 say -/

section
variable {rm : BitVec 2} {z : ℚ} {q n : ℕ}

/-- A number from an integer to below the next one (spec/49_fpu_arith.md R319, R320, R321, R328). -/
theorem roundToInt_of_nonneg (hle : (q : ℚ) ≤ z) (hlt : z < q + 1)
    (goes : (GoesUp rm false z q ∧ n = q + 1) ∨ (¬ GoesUp rm false z q ∧ n = q)) : roundToInt rm z = n := by
  have floor : ⌊z⌋ = q := Int.floor_eq_iff.2 ⟨by exact_mod_cast hle, by exact_mod_cast hlt⟩
  have ceil : ⌈z⌉ = if (q : ℚ) < z then (q : ℤ) + 1 else q := by
    split <;> exact Int.ceil_eq_iff.2 ⟨by push_cast; linarith, by push_cast; linarith⟩
  have nonneg : ¬ z < 0 := not_lt.2 (q.cast_nonneg.trans hle)
  revert goes
  refine forall_mode (P := fun rm => (GoesUp rm false z q ∧ n = q + 1) ∨ (¬ GoesUp rm false z q ∧ n = q) →
    roundToInt rm z = n) ?nearest ?zero ?up ?down rm
  case nearest =>
    simp only [GoesUp, roundToInt, floor, Int.cast_natCast]
    grind
  case zero => simp [GoesUp, roundToInt, floor, nonneg]; omega
  case up => simp [GoesUp, roundToInt, ceil]; grind
  case down => simp [GoesUp, roundToInt, floor]; omega

/-- The same below zero. -/
theorem roundToInt_of_nonpos (hle : (q : ℚ) ≤ z) (hlt : z < q + 1)
    (goes : (GoesUp rm true z q ∧ n = q + 1) ∨ (¬ GoesUp rm true z q ∧ n = q)) : roundToInt rm (-z) = -(n : ℤ) := by
  have ceil : ⌈-z⌉ = -(q : ℤ) := Int.ceil_eq_iff.2 ⟨by push_cast; linarith, by push_cast; linarith⟩
  have floor : ⌊-z⌋ = if (q : ℚ) < z then -(q : ℤ) - 1 else -q := by
    split <;> exact Int.floor_eq_iff.2 ⟨by push_cast; linarith, by push_cast; linarith⟩
  have sign : ¬ -z < 0 → z = 0 ∧ q = 0 := fun h =>
    have hz : z = 0 := le_antisymm (by linarith) (q.cast_nonneg.trans hle)
    ⟨hz, by simpa [hz] using hle⟩
  revert goes
  refine forall_mode (P := fun rm => (GoesUp rm true z q ∧ n = q + 1) ∨ (¬ GoesUp rm true z q ∧ n = q) →
    roundToInt rm (-z) = -(n : ℤ)) ?nearest ?zero ?up ?down rm
  case nearest =>
    by_cases above : (q : ℚ) < z
    · simp only [GoesUp, roundToInt, floor, if_pos above]
      push_cast
      grind
    · simp only [GoesUp, roundToInt, floor, if_neg above]
      push_cast
      grind
  case zero => simp only [GoesUp, roundToInt, ceil, floor]; grind
  case up => simp [GoesUp, roundToInt, ceil]; omega
  case down => simp [GoesUp, roundToInt, floor]; grind

/-- Rounding to an integer is rounding the magnitude and keeping the sign. -/
theorem RoundsMag.roundToInt_eq {neg : Bool} (h : RoundsMag rm neg z n) :
    roundToInt rm (if neg then -z else z) = signedInt neg n := by
  obtain ⟨q, hle, hlt, goes⟩ := h
  cases neg with
  | false => exact roundToInt_of_nonneg hle hlt goes
  | true => exact roundToInt_of_nonpos hle hlt goes

end

/-! ## Conversions to W -/

/-- The magnitude of a finite operand, as fpToWord shifts it. -/
theorem FpVal.value_eq_shifted (neg : Bool) (m : ℕ) (e : ℤ) :
    let z : ℚ := (m * 2 ^ e.toNat : ℕ) / 2 ^ (-e).toNat
    (FpVal.fin neg m e).value = if neg then -z else z := by
  have scale : (2 : ℚ) ^ e = 2 ^ e.toNat / 2 ^ (-e).toNat := by
    rw [← zpow_natCast, ← zpow_natCast, ← zpow_sub₀ two_ne_zero]
    congr 1
    omega
  rw [FpVal.value, scale]
  cases neg <;> push_cast <;> simp <;> ring

/-- The integer a conversion gives, and when it is invalid or inexact (spec/49_fpu_arith.md R322). -/
theorem fpToWord_eq (rm : BitVec 2) (a : FpVal) :
    fpToWord rm a =
      let n := roundToInt rm a.value
      if a.isFinite = true ∧ -2 ^ 31 ≤ n ∧ n ≤ 2 ^ 31 - 1
      then ⟨{ FpConds.none with inexact := decide ((n : ℚ) ≠ a.value) }, (BitVec.ofInt 32 n).setWidth 64⟩
      else ⟨.justInvalid, 0x7FFFFFFF⟩ := by
  cases a with
  | nan | inf => rfl
  | fin neg m e =>
    let mag := roundShift rm neg (m * 2 ^ e.toNat) (-e).toNat
    have rounded : roundToInt rm (FpVal.fin neg m e).value = signedInt neg mag := by
      rw [FpVal.value_eq_shifted]
      exact (roundShift_roundsMag rm neg _ _).roundToInt_eq
    have inexact : (m * 2 ^ e.toNat % 2 ^ (-e).toNat ≠ 0)
        ↔ ((signedInt neg mag : ℚ) ≠ (FpVal.fin neg m e).value) := by
      rw [FpVal.value_eq_shifted, ne_eq, roundShift_exact_iff (α := ℚ) rm neg, signedInt]
      cases neg <;> simp [mag]
    have outside : (signedInt neg mag < -2 ^ 31 ∨ 2 ^ 31 - 1 < signedInt neg mag)
        ↔ ¬ ((FpVal.fin neg m e).isFinite = true ∧ -2 ^ 31 ≤ signedInt neg mag ∧ signedInt neg mag ≤ 2 ^ 31 - 1) := by
      have finite : (FpVal.fin neg m e).isFinite = true := rfl
      simp only [finite, true_and, not_and_or, not_le]
    have run : fpToWord rm (.fin neg m e) =
        if signedInt neg mag < -2 ^ 31 ∨ 2 ^ 31 - 1 < signedInt neg mag then ⟨.justInvalid, 0x7FFFFFFF⟩
        else ⟨.ofInexact (decide (m * 2 ^ e.toNat % 2 ^ (-e).toNat ≠ 0)),
          (BitVec.ofInt 32 (signedInt neg mag)).setWidth 64⟩ := rfl
    simp only [run, rounded, outside, ite_not, inexact]
    rfl

/-- Settles O37. -/
theorem fpuToWord : Obligations.FpuToWord := by
  intro s fs fd usable rm
  have toW {i : Instr} {w : Word} {fmt : Fmt} {mode : BitVec 2} (he : exec i s = s.fpToW i fmt mode fs fd)
      (hw : encode i = w) (wf : i.WellFormed = true) (float : fmt ≠ .w) :=
    And.intro (decode_of_encode hw wf) fun hfs hs implemented =>
      fpUnary_ends usable he hfs rfl hs implemented
        ((congrArg (fpToWord mode) (s.fpNumber_float float _)).trans (fpToWord_eq mode _))
        (if_neg (Bool.eq_false_iff.1 (s.fpDenormal_word _))).symm
  have single : Fmt.s ≠ .w := by decide
  have double : Fmt.d ≠ .w := by decide
  simp only [List.forall_mem_cons, List.not_mem_nil, false_imp_iff, implies_true, and_true]
  exact ⟨toW rfl rfl rfl single, toW rfl rfl rfl double, toW rfl rfl rfl single, toW rfl rfl rfl double,
    toW rfl rfl rfl single, toW rfl rfl rfl double, toW rfl rfl rfl single, toW rfl rfl rfl double,
    toW rfl rfl rfl single, toW rfl rfl rfl double⟩

end Sys2Proof.Machine
end

section
/-! Rounding to a format (spec/49_fpu_arith.md R300, R303): fpRound gives the number of the format that the mode asks for.
A magnitude y is rounded through a number m * 2 ^ e that stands for it: the number itself, or one that stands to every
multiple of half the last place as y does. -/
namespace Sys2Proof.Machine

/-! ## Numbers that round alike -/

/-- y and z stand alike to every multiple of the unit. -/
def AlikeTo (u y z : ℝ) : Prop := ∀ k : ℕ, (k * u ≤ y ↔ k * u ≤ z) ∧ (y ≤ k * u ↔ z ≤ k * u)

section
variable {u y z : ℝ}

theorem AlikeTo.refl (u y : ℝ) : AlikeTo u y y := fun _ => ⟨Iff.rfl, Iff.rfl⟩

theorem AlikeTo.eq_iff (h : AlikeTo u y z) (k : ℕ) : k * u = y ↔ k * u = z := by
  rw [le_antisymm_iff, le_antisymm_iff, (h k).1, (h k).2]

theorem AlikeTo.mul (c : ℕ) (h : AlikeTo u y z) : AlikeTo (c * u) y z := by
  intro k
  have scaled := h (k * c)
  rwa [Nat.cast_mul, mul_assoc] at scaled

theorem two_zpow_of_le {a b : ℤ} (h : a ≤ b) : (2 : ℝ) ^ b = (2 ^ (b - a).toNat : ℕ) * 2 ^ a := by
  rw [Nat.cast_pow, Nat.cast_ofNat, ← zpow_natCast, ← zpow_add₀ two_ne_zero]
  congr 1
  omega

theorem AlikeTo.coarser {a b : ℤ} (hab : a ≤ b) (h : AlikeTo (2 ^ a) y z) : AlikeTo (2 ^ b) y z :=
  two_zpow_of_le hab ▸ h.mul _

theorem AlikeTo.div {c : ℝ} (hc : 0 < c) (h : AlikeTo (u * c) y z) : AlikeTo u (y / c) (z / c) := by
  intro k
  rw [le_div_iff₀ hc, le_div_iff₀ hc, div_le_iff₀ hc, div_le_iff₀ hc, mul_assoc]
  exact h k

/-- Rounding sees a number only through the halves around it. -/
theorem RoundsMag.congr {rm : BitVec 2} {neg : Bool} {n : ℕ} (h : RoundsMag rm neg y n) (alike : AlikeTo (1 / 2) y z) :
    RoundsMag rm neg z n := by
  have whole (k : ℕ) : ((k : ℝ) ≤ y ↔ (k : ℝ) ≤ z) ∧ (y ≤ k ↔ z ≤ k) := by
    have := alike (2 * k)
    push_cast at this
    rwa [mul_right_comm, mul_one_div_cancel two_ne_zero, one_mul] at this
  have half (k : ℕ) : ((k : ℝ) + 1 / 2 ≤ y ↔ (k : ℝ) + 1 / 2 ≤ z) ∧ (y ≤ k + 1 / 2 ↔ z ≤ k + 1 / 2) := by
    have := alike (2 * k + 1)
    push_cast at this
    rwa [add_mul, mul_right_comm, mul_one_div_cancel two_ne_zero, one_mul, one_mul] at this
  have same (q : ℕ) : GoesUp rm neg y q ↔ GoesUp rm neg z q := by
    have above : (q : ℝ) < y ↔ (q : ℝ) < z := by rw [← not_le, ← not_le, (whole q).2]
    have more : (q : ℝ) + 1 / 2 < y ↔ (q : ℝ) + 1 / 2 < z := by rw [← not_le, ← not_le, (half q).2]
    have tie : y = q + 1 / 2 ↔ z = q + 1 / 2 := by rw [le_antisymm_iff, le_antisymm_iff, (half q).1, (half q).2]
    unfold GoesUp
    simp only [above, more, tie]
  obtain ⟨q, hle, hlt, goes⟩ := h
  refine ⟨q, (whole q).1.1 hle, ?_, by rwa [← same]⟩
  have := (whole (q + 1)).1
  push_cast at this
  exact not_le.1 (mt this.2 (not_le.2 hlt))

end

/-! ## The number closest to y, and the last one on a side, among numbers with a gap -/

/-- No magnitude lies strictly between a and the next number, one unit up. -/
def Gap (a unit u : ℝ) : Prop := |u| ≤ a ∨ a + unit ≤ |u|

section
variable {a unit y u : ℝ}

theorem Gap.neg (h : Gap a unit u) : Gap a unit (-u) := by rwa [Gap, abs_neg]

theorem Gap.nearest_low (gap : Gap a unit u) (h0 : 0 ≤ a) (hle : a ≤ y) (hlt : y < a + unit) (low : y ≤ a + unit / 2) :
    |y - a| ≤ |y - u| ∧ (|y - a| = |y - u| → u = a ∨ y = a + unit / 2) := by
  rcases gap with h | h <;> grind

theorem Gap.nearest_high (gap : Gap a unit u) (h0 : 0 ≤ a) (hle : a ≤ y) (hlt : y < a + unit) (high : a + unit / 2 ≤ y) :
    |y - (a + unit)| ≤ |y - u| ∧ (|y - (a + unit)| = |y - u| → u = a + unit ∨ y = a + unit / 2) := by
  rcases gap with h | h <;> grind

end

/-! ## The rounded number (spec/49_fpu_arith.md R300) -/

/-- A magnitude with its sign, as a number. -/
def signedReal (neg : Bool) (y : ℝ) : ℝ := if neg then -y else y

section
variable {neg : Bool} {y : ℝ}

@[simp] theorem signedReal_false : signedReal false y = y := rfl
@[simp] theorem signedReal_true : signedReal true y = -y := rfl

@[simp] theorem abs_signedReal (neg : Bool) (y : ℝ) : |signedReal neg y| = |y| := by
  cases neg with
  | false => rfl
  | true => exact abs_neg y

theorem abs_signedReal_sub (neg : Bool) (y u : ℝ) : |signedReal neg y - u| = |y - signedReal neg u| := by
  cases neg with
  | false => rfl
  | true => rw [signedReal_true, signedReal_true, ← abs_neg]; congr 1; ring

theorem signedReal_signedReal (neg : Bool) (y : ℝ) : signedReal neg (signedReal neg y) = y := by cases neg <;> simp

theorem signedReal_neg_iff (h : 0 < y) : neg = true ↔ signedReal neg y < 0 := by
  cases neg <;> simp [h, h.le]

theorem patternValue_of_fin {f : FpFormat} {w : BitVec 64} {m : ℕ} {e : ℤ} (h : fpUnpack f false w = .fin neg m e) :
    patternValue f w = signedReal neg (m * 2 ^ e) := by
  rw [patternValue, h, FpVal.value]
  cases neg <;> simp

end

section
variable {f : FpFormat} {rm : BitVec 2} {neg : Bool} {y unit u : ℝ} {n : ℕ}

/-- The rounded magnitude, where y lies from a = q units to below a + unit. -/
theorem RoundsMag.unscale (h : RoundsMag rm neg (y / unit) n) (hu : 0 < unit) :
    ∃ q : ℕ, q * unit ≤ y ∧ y < q * unit + unit
      ∧ ((GoesUp rm neg (y / unit) q ∧ n = q + 1) ∨ (¬ GoesUp rm neg (y / unit) q ∧ n = q)) := by
  obtain ⟨q, hle, hlt, goes⟩ := h
  refine ⟨q, (le_div_iff₀ hu).1 hle, ?_, goes⟩
  rw [← add_one_mul]
  exact (div_lt_iff₀ hu).1 hlt

/-- To nearest, no number of the format is nearer, and one as near leaves the even one. -/
theorem RoundsMag.nearest (h : RoundsMag 0 neg (y / unit) n) (hu : 0 < unit)
    (gap : ∀ q : ℕ, q * unit ≤ y → y < q * unit + unit → Gap (q * unit) unit u) :
    |y - n * unit| ≤ |y - u| ∧ (|y - n * unit| = |y - u| → u = n * unit ∨ n % 2 = 0) := by
  obtain ⟨q, hle, hlt, goes⟩ := h.unscale hu
  have least : (0 : ℝ) ≤ q * unit := by positivity
  have scaled (t : ℝ) : t * unit ≤ y ↔ t ≤ y / unit := (le_div_iff₀ hu).symm
  have scaled' (t : ℝ) : y ≤ t * unit ↔ y / unit ≤ t := (div_le_iff₀ hu).symm
  have tie : ((q : ℝ) + 1 / 2) * unit = q * unit + unit / 2 := by ring
  rcases goes with ⟨up, rfl⟩ | ⟨down, rfl⟩
  · have high : q * unit + unit / 2 ≤ y := by
      rw [← tie, scaled]
      rcases up with h | ⟨h, -⟩
      · exact h.le
      · exact h.ge
    obtain ⟨near, even⟩ := (gap q hle hlt).nearest_high least hle hlt high
    rw [Nat.cast_add_one, add_one_mul]
    refine ⟨near, fun eq => (even eq).imp_right fun half => ?_⟩
    rcases up with h | ⟨-, odd⟩
    · rw [lt_div_iff₀ hu, tie] at h
      linarith
    · omega
  · have low : y ≤ n * unit + unit / 2 := by
      rw [← tie, scaled', ← not_lt]
      exact fun h => down (.inl h)
    obtain ⟨near, even⟩ := (gap n hle hlt).nearest_low least hle hlt low
    refine ⟨near, fun eq => (even eq).imp_right fun half => ?_⟩
    by_contra odd
    refine down (.inr ⟨?_, by omega⟩)
    rw [div_eq_iff hu.ne', tie]
    exact half

/-- Where the mode never goes up: the last number that is no larger. -/
theorem RoundsMag.truncated (h : RoundsMag rm neg (y / unit) n) (hu : 0 < unit)
    (gap : ∀ q : ℕ, q * unit ≤ y → y < q * unit + unit → Gap (q * unit) unit u)
    (never : ∀ z q, ¬ GoesUp rm neg (z : ℝ) q) : n * unit ≤ y ∧ (|u| ≤ y → |u| ≤ n * unit) := by
  obtain ⟨q, hle, hlt, ⟨up, -⟩ | ⟨-, rfl⟩⟩ := h.unscale hu
  · exact absurd up (never _ _)
  · exact ⟨hle, fun below => (gap n hle hlt).resolve_right (not_le.2 (below.trans_lt hlt))⟩

/-- Where the mode goes up from all but integers: the first number that is no smaller. -/
theorem RoundsMag.augmented (h : RoundsMag rm neg (y / unit) n) (hu : 0 < unit)
    (gap : ∀ q : ℕ, q * unit ≤ y → y < q * unit + unit → Gap (q * unit) unit u)
    (always : ∀ z q, GoesUp rm neg (z : ℝ) q ↔ (q : ℝ) < z) : y ≤ n * unit ∧ (y ≤ |u| → n * unit ≤ |u|) := by
  obtain ⟨q, hle, hlt, ⟨up, rfl⟩ | ⟨down, rfl⟩⟩ := h.unscale hu
  · rw [always, lt_div_iff₀ hu] at up
    rw [Nat.cast_add_one, add_one_mul]
    exact ⟨hlt.le, fun above => (gap q hle hlt).resolve_left (not_le.2 (up.trans_le above))⟩
  · rw [always, lt_div_iff₀ hu, not_lt] at down
    exact ⟨down, hle.trans⟩

/-- A result is the rounded number where its pattern holds the rounded magnitude and the numbers of the format leave a
gap about y. -/
theorem roundsTo_of_roundsMag {out : FpOut} {m : ℕ} {e : ℤ} (hy : 0 < y) (hu : 0 < unit)
    (rounds : RoundsMag rm neg (y / unit) n) (unpack : fpUnpack f false out.value = .fin neg m e)
    (value : (m : ℝ) * 2 ^ e = n * unit) (place : unit ≤ 2 ^ e) (even : n % 2 = 0 → m % 2 = 0)
    (inexact : out.conds.inexact = true ↔ n * unit ≠ y)
    (gap : ∀ w, ∀ q : ℕ, q * unit ≤ y → y < q * unit + unit → Gap (q * unit) unit (patternValue f w)) :
    RoundsTo f rm (signedReal neg y) out := by
  have pattern : patternValue f out.value = signedReal neg (n * unit) := by rw [patternValue_of_fin unpack, value]
  have distance (u : ℝ) : |signedReal neg y - signedReal neg u| = |y - u| := by
    rw [abs_signedReal_sub, signedReal_signedReal]
  have least : 0 ≤ n * unit := by positivity
  refine ⟨neg, m, e, unpack, signedReal_neg_iff hy, ?_, ?_, ?_, ?_, ?_, ?_⟩
  · rw [pattern, distance]
    refine lt_of_lt_of_le ?_ place
    obtain ⟨q, hle, hlt, ⟨up, rfl⟩ | ⟨-, rfl⟩⟩ := rounds.unscale hu
    · have := (lt_div_iff₀ hu).1 up.lt
      push_cast
      rw [abs_lt]
      constructor <;> linarith
    · rw [abs_lt]
      constructor <;> linarith
  · rintro rfl w
    have flipped : ∀ q : ℕ, q * unit ≤ y → y < q * unit + unit →
        Gap (q * unit) unit (signedReal neg (patternValue f w)) := by
      cases neg with
      | false => exact gap w
      | true => exact fun q hle hlt => (gap w q hle hlt).neg
    obtain ⟨near, tie⟩ := rounds.nearest hu flipped
    rw [pattern, distance, abs_signedReal_sub]
    exact ⟨near, fun eq => (tie eq).imp (fun h => by rw [← h, signedReal_signedReal]) even⟩
  · rintro rfl
    have trunc w := rounds.truncated hu (gap w) fun _ _ h => h
    rw [pattern, abs_signedReal, abs_signedReal, abs_of_pos hy, abs_of_nonneg least]
    exact ⟨(trunc 0).1, fun w => (trunc w).2⟩
  · rintro rfl
    rw [pattern]
    cases neg with
    | false =>
      have up w := rounds.augmented hu (gap w) fun _ _ => by simp [GoesUp]
      refine ⟨(up 0).1, fun w above => ?_⟩
      have positive := abs_of_pos (hy.trans_le above)
      exact positive ▸ (up w).2 (positive.symm ▸ above)
    | true =>
      have trunc w := rounds.truncated hu (gap w) fun _ _ => by simp [GoesUp]
      refine ⟨neg_le_neg (trunc 0).1, fun w above => ?_⟩
      rw [signedReal_true] at above ⊢
      have := (trunc w).2
      grind
  · rintro rfl
    rw [pattern]
    cases neg with
    | false =>
      have trunc w := rounds.truncated hu (gap w) fun _ _ => by simp [GoesUp]
      refine ⟨(trunc 0).1, fun w below => ?_⟩
      rw [signedReal_false] at below ⊢
      have := (trunc w).2
      grind
    | true =>
      have up w := rounds.augmented hu (gap w) fun _ _ => by simp [GoesUp]
      refine ⟨neg_le_neg (up 0).1, fun w below => ?_⟩
      rw [signedReal_true] at below ⊢
      have := (up w).2
      grind
  · rw [inexact, pattern, ne_comm]
    cases neg <;> simp

end

/-! ## The numbers of a format -/

/-- What a finite pattern's number is made of. -/
theorem fpUnpack_fin_bounds {f : FpFormat} {n neg : Bool} {w : BitVec 64} {m : ℕ} {e : ℤ}
    (h : fpUnpack f n w = .fin neg m e) : m < 2 ^ (f.fracBits + 1) ∧ 1 - (f.bias : ℤ) - f.fracBits ≤ e := by
  have fraction := Nat.mod_lt w.toNat (Nat.two_pow_pos f.fracBits)
  simp only [fpUnpack] at h
  split at h
  · split at h <;> cases h
  · split at h <;> cases h
    · exact ⟨by rw [pow_succ]; omega, le_rfl⟩
    · exact ⟨by rw [pow_succ]; omega, by omega⟩

/-- The numbers of a format from 2 ^ fracBits units up, and from 0 up at the least unit, are the multiples of the unit. -/
theorem gap_patternValue {f : FpFormat} {place : ℤ} {q : ℕ} (w : BitVec 64)
    (normal : place = 1 - (f.bias : ℤ) - f.fracBits ∨ 2 ^ f.fracBits ≤ q) :
    Gap (q * 2 ^ place) (2 ^ place) (patternValue f w) := by
  have unit : (0 : ℝ) < 2 ^ place := by positivity
  cases h : fpUnpack f false w with
  | nan | inf => exact .inl (by simp [patternValue, h, FpVal.value]; positivity)
  | fin neg m e =>
    obtain ⟨small, least⟩ := fpUnpack_fin_bounds h
    have size : |patternValue f w| = m * 2 ^ e := by
      rw [patternValue_of_fin h, abs_signedReal, abs_of_nonneg (by positivity)]
    rw [Gap, size]
    rcases le_or_gt place e with fine | coarse
    · rw [two_zpow_of_le fine, ← mul_assoc, ← Nat.cast_mul, ← add_one_mul, ← Nat.cast_add_one,
        mul_le_mul_iff_left₀ unit, mul_le_mul_iff_left₀ unit, Nat.cast_le, Nat.cast_le]
      omega
    · have large : 2 ^ f.fracBits ≤ q := normal.resolve_left (by omega)
      left
      calc (m : ℝ) * 2 ^ e ≤ 2 ^ (f.fracBits + 1) * 2 ^ (place - 1) :=
            mul_le_mul (by exact_mod_cast small.le) (zpow_le_zpow_right₀ one_le_two (by omega)) (by positivity)
              (by positivity)
        _ = 2 ^ f.fracBits * 2 ^ place := by
            rw [pow_succ, zpow_sub_one₀ two_ne_zero, mul_assoc, mul_left_comm 2, mul_inv_cancel₀ two_ne_zero, mul_one]
        _ ≤ q * 2 ^ place := by
            rw [mul_le_mul_iff_left₀ unit]
            exact_mod_cast large

/-! ## The numbers that fpRound computes -/

/-- The exponent of the first digit of m * 2 ^ e. -/
def topOf (m : ℕ) (e : ℤ) : ℤ := e + Nat.log2 m

/-- The last place of the format's precision under that digit, exponents unbounded. -/
def wideOf (f : FpFormat) (m : ℕ) (e : ℤ) : ℤ := topOf m e - f.fracBits

/-- The last place that the format has there. -/
def quantumOf (f : FpFormat) (m : ℕ) (e : ℤ) : ℤ := max (wideOf f m e) (1 - (f.bias : ℤ) - f.fracBits)

/-- m * 2 ^ e in units of a place, rounded. -/
def roundAt (rm : BitVec 2) (neg : Bool) (m : ℕ) (e place : ℤ) : ℕ :=
  roundShift rm neg (m * 2 ^ (e - place).toNat) (place - e).toNat

/-- y is rounded as m * 2 ^ e is: the two stand alike to every multiple of half the last place. -/
def StandsFor (f : FpFormat) (m : ℕ) (e : ℤ) (y : ℝ) : Prop := AlikeTo (2 ^ (wideOf f m e - 1)) (m * 2 ^ e) y

section
variable {f : FpFormat} {rm : BitVec 2} {neg : Bool} {m : ℕ} {e : ℤ} {y : ℝ}

theorem shift_eq_scaled (m : ℕ) (e place : ℤ) :
    ((m * 2 ^ (e - place).toNat : ℕ) : ℝ) / 2 ^ (place - e).toNat = m * 2 ^ e / 2 ^ place := by
  have scale : (2 : ℝ) ^ (e - place).toNat * 2 ^ place = 2 ^ e * 2 ^ (place - e).toNat := by
    rw [← zpow_natCast, ← zpow_natCast, ← zpow_add₀ two_ne_zero, ← zpow_add₀ two_ne_zero]
    congr 1
    omega
  rw [div_eq_div_iff (by positivity) (by positivity), Nat.cast_mul, Nat.cast_pow, Nat.cast_ofNat, mul_assoc, scale,
    mul_assoc]

theorem StandsFor.alikeTo_place (h : StandsFor f m e y) {place : ℤ} (hp : wideOf f m e ≤ place) :
    AlikeTo (2 ^ place) (m * 2 ^ e) y := AlikeTo.coarser (by omega) h

theorem StandsFor.roundsMag (h : StandsFor f m e y) {place : ℤ} (hp : wideOf f m e ≤ place) :
    RoundsMag rm neg (y / 2 ^ place) (roundAt rm neg m e place) := by
  have rounds := roundShift_roundsMag (α := ℝ) rm neg (m * 2 ^ (e - place).toNat) (place - e).toNat
  rw [shift_eq_scaled] at rounds
  refine rounds.congr (AlikeTo.div (by positivity) ?_)
  have half : (1 : ℝ) / 2 * 2 ^ place = 2 ^ (place - 1) := by rw [zpow_sub_one₀ two_ne_zero]; ring
  rw [half]
  exact AlikeTo.coarser (by omega) h

theorem StandsFor.exact_iff (h : StandsFor f m e y) {place : ℤ} (hp : wideOf f m e ≤ place) :
    m * 2 ^ (e - place).toNat % 2 ^ (place - e).toNat = 0 ↔ roundAt rm neg m e place * 2 ^ place = y := by
  rw [roundShift_exact_iff (α := ℝ) rm neg, shift_eq_scaled, ← (h.alikeTo_place hp).eq_iff, eq_div_iff (by positivity)]
  rfl

theorem two_zpow_top_le (hm : m ≠ 0) : (2 : ℝ) ^ topOf m e ≤ m * 2 ^ e := by
  rw [topOf, add_comm, zpow_add₀ two_ne_zero, zpow_natCast, mul_le_mul_iff_left₀ (by positivity)]
  exact_mod_cast Nat.log2_self_le hm

theorem lt_two_zpow_top : (m : ℝ) * 2 ^ e < 2 ^ (topOf m e + 1) := by
  rw [topOf, add_assoc, add_comm, zpow_add₀ two_ne_zero, mul_lt_mul_iff_left₀ (by positivity)]
  exact_mod_cast Nat.lt_log2_self

/-- The first digit of y is that of the number that stands for it. -/
theorem StandsFor.two_zpow_top_le (h : StandsFor f m e y) (hm : m ≠ 0) : 2 ^ topOf m e ≤ y := by
  have place := (h.alikeTo_place le_rfl (2 ^ f.fracBits)).1
  have digit : ((2 ^ f.fracBits : ℕ) : ℝ) * 2 ^ wideOf f m e = 2 ^ topOf m e := by
    rw [wideOf, two_zpow_of_le (a := topOf m e - f.fracBits) (b := topOf m e) (by omega)]
    congr 3
    omega
  rw [digit] at place
  exact place.1 (Machine.two_zpow_top_le hm)

theorem StandsFor.lt_two_zpow_top (h : StandsFor f m e y) : y < 2 ^ (topOf m e + 1) := by
  have place := (h.alikeTo_place le_rfl (2 ^ (f.fracBits + 1))).1
  have digit : ((2 ^ (f.fracBits + 1) : ℕ) : ℝ) * 2 ^ wideOf f m e = 2 ^ (topOf m e + 1) := by
    rw [wideOf, two_zpow_of_le (a := topOf m e - f.fracBits) (b := topOf m e + 1) (by omega)]
    congr 3
    omega
  rw [digit] at place
  exact not_le.1 (mt place.2 (not_le.2 Machine.lt_two_zpow_top))

end

/-! ## Reaching a power of two (spec/49_fpu_arith.md R300, log 40) -/

section
variable {rm : BitVec 2} {neg : Bool} {z : ℝ} {n k : ℕ}

theorem RoundsMag.le_of_lt (h : RoundsMag rm neg z n) (hz : z < k) : n ≤ k := by
  obtain ⟨q, hle, -, goes⟩ := h
  have : q < k := by exact_mod_cast hle.trans_lt hz
  omega

theorem RoundsMag.le_of_le (h : RoundsMag rm neg z n) (hz : k ≤ z) : k ≤ n := by
  obtain ⟨q, -, hlt, goes⟩ := h
  have : k < q + 1 := by exact_mod_cast hz.trans_lt hlt
  omega

/-- The mode takes y, below t and above t - u, to t. -/
def Near (rm : BitVec 2) (neg : Bool) (y t u : ℝ) : Prop :=
  match rm.toNat with
  | 0 => t - u / 2 ≤ y
  | 1 => False
  | 2 => neg = false ∧ t - u < y
  | _ => neg = true ∧ t - u < y

theorem Near.le {y t u : ℝ} (h : Near rm neg y t u) (hu : 0 ≤ u) : t - u ≤ y := by
  revert h
  refine forall_mode (P := fun rm => Near rm neg y t u → t - u ≤ y) (fun h => ?_) (fun h => h.elim) (fun h => h.2.le)
    (fun h => h.2.le) rm
  have half : t - u / 2 ≤ y := h
  linarith

theorem roundsUpTo_iff {y t u : ℝ} (hy : 0 < y) (hu : 0 ≤ u) :
    RoundsUpTo rm (signedReal neg y) t u ↔ t ≤ y ∨ Near rm neg y t u := by
  have size : |y| = y := abs_of_pos hy
  refine forall_mode (P := fun rm => RoundsUpTo rm (signedReal neg y) t u ↔ t ≤ y ∨ Near rm neg y t u) ?_ ?_ ?_ ?_ rm
  · have half : t ≤ y → t - u / 2 ≤ y := fun h => by linarith
    simpa [RoundsUpTo, Near, size] using half
  · simp [RoundsUpTo, Near, size]
  · cases neg <;> simp [RoundsUpTo, Near, size, hy, hy.le]
  · cases neg <;> simp [RoundsUpTo, Near, size, hy, hy.le]

/-- A magnitude below an even number reaches it by rounding exactly when it is near. -/
theorem RoundsMag.eq_iff_near (h : RoundsMag rm neg z n) (hk : k % 2 = 0) (hz : z < k) :
    n = k ↔ Near rm neg z k 1 := by
  obtain ⟨q, hle, hlt, goes⟩ := h
  have below : q < k := by exact_mod_cast hle.trans_lt hz
  have last (h : (k : ℝ) - 1 < z) : k = q + 1 := by
    have : k < q + 2 := by exact_mod_cast (by linarith : (k : ℝ) < q + 2)
    omega
  have up : n = k ↔ k = q + 1 ∧ GoesUp rm neg z q := by
    rcases goes with ⟨up, rfl⟩ | ⟨down, rfl⟩
    · simp [up, eq_comm]
    · simp [down, below.ne]
  have directed : (k = q + 1 ∧ (q : ℝ) < z) ↔ (k : ℝ) - 1 < z := by
    constructor
    · rintro ⟨rfl, more⟩
      push_cast
      linarith
    · intro more
      obtain rfl := last more
      push_cast at more
      exact ⟨rfl, by linarith⟩
  rw [up]
  refine forall_mode (P := fun rm => (k = q + 1 ∧ GoesUp rm neg z q) ↔ Near rm neg z k 1) ?_ ?_ ?_ ?_ rm
  · constructor
    · rintro ⟨rfl, goes⟩
      show ((q + 1 : ℕ) : ℝ) - 1 / 2 ≤ z
      push_cast
      rcases goes with h | ⟨h, -⟩ <;> linarith
    · intro (near : (k : ℝ) - 1 / 2 ≤ z)
      obtain rfl := last (by linarith)
      push_cast at near
      refine ⟨rfl, ?_⟩
      rcases (by linarith : (q : ℝ) + 1 / 2 ≤ z).eq_or_lt with tie | more
      · exact .inr ⟨tie.symm, by omega⟩
      · exact .inl more
  · simp [GoesUp, Near]
  · exact and_left_comm.trans (and_congr_right fun _ => directed)
  · exact and_left_comm.trans (and_congr_right fun _ => directed)

end

section
variable {f : FpFormat} {rm : BitVec 2} {neg : Bool} {m : ℕ} {e : ℤ} {y : ℝ}

theorem near_scaled {t unit : ℝ} (hu : 0 < unit) : Near rm neg (y / unit) t 1 ↔ Near rm neg y (t * unit) unit := by
  have half : t - 1 / 2 ≤ y / unit ↔ t * unit - unit / 2 ≤ y := by
    rw [le_div_iff₀ hu, sub_mul, one_div_mul_eq_div]
  have whole : t - 1 < y / unit ↔ t * unit - unit < y := by rw [lt_div_iff₀ hu, sub_mul, one_mul]
  unfold Near
  simp only [half, whole]

/-- y, rounded with exponents unbounded, reaches 2 ^ t: its first digit does, or it is rounded up to the next one. -/
theorem StandsFor.roundsUpTo_iff (h : StandsFor f m e y) (hm : m ≠ 0) (t : ℤ) {u : ℤ} (hu : u = t - 1 - f.fracBits) :
    RoundsUpTo rm (signedReal neg y) (2 ^ t) (2 ^ u)
      ↔ t ≤ topOf m e ∨ (t = topOf m e + 1 ∧ roundAt rm neg m e (wideOf f m e) = 2 ^ (f.fracBits + 1)) := by
  have digit := h.two_zpow_top_le hm
  have below := h.lt_two_zpow_top
  have unit : (0 : ℝ) < 2 ^ u := by positivity
  have next : (2 : ℝ) ^ (topOf m e + 1) = (2 ^ (f.fracBits + 1) : ℕ) * 2 ^ wideOf f m e := by
    rw [two_zpow_of_le (a := wideOf f m e) (b := topOf m e + 1) (by simp only [wideOf]; omega)]
    congr 3
    simp only [wideOf]
    omega
  rw [Machine.roundsUpTo_iff (lt_of_lt_of_le (by positivity) digit) unit.le]
  rcases lt_trichotomy t (topOf m e + 1) with low | rfl | high
  · have reached : (2 : ℝ) ^ t ≤ y := (zpow_le_zpow_right₀ one_le_two (by omega)).trans digit
    exact iff_of_true (.inl reached) (.inl (by omega))
  · obtain rfl : u = wideOf f m e := by rw [hu, wideOf]; omega
    have scaled : y / 2 ^ wideOf f m e < (2 ^ (f.fracBits + 1) : ℕ) := by rwa [div_lt_iff₀ unit, ← next]
    rw [(h.roundsMag le_rfl).eq_iff_near (by rw [pow_succ, Nat.mul_mod_left]) scaled, near_scaled unit, ← next]
    simp [not_le.2 below]
  · have far : y < (2 : ℝ) ^ t - 2 ^ u := by
      have step : (2 : ℝ) ^ t = 2 * 2 ^ (t - 1) := by rw [zpow_sub_one₀ two_ne_zero]; ring
      have first : (2 : ℝ) ^ (topOf m e + 1) ≤ 2 ^ (t - 1) := zpow_le_zpow_right₀ one_le_two (by omega)
      have last : (2 : ℝ) ^ u ≤ 2 ^ (t - 1) := zpow_le_zpow_right₀ one_le_two (by omega)
      linarith
    refine iff_of_false ?_ (by omega)
    rintro (reached | near)
    · linarith
    · linarith [near.le unit.le]

/-! ## fpRound's result -/

/-- A rounded magnitude that has grown by a digit, in units of the next place. -/
def carry (f : FpFormat) (n : ℕ) (place : ℤ) : ℕ × ℤ :=
  let grown := decide (n = 2 ^ (f.fracBits + 1))
  (if grown then 2 ^ f.fracBits else n, if grown then place + 1 else place)

/-- The pattern of n units of a place. -/
def packAt (f : FpFormat) (neg : Bool) (n : ℕ) (place : ℤ) : BitVec 64 :=
  if n < 2 ^ f.fracBits then fpPack f neg 0 n
  else fpPack f neg (place + f.fracBits + f.bias).toNat (n - 2 ^ f.fracBits)

/-- The rounded number is not m * 2 ^ e. -/
def inexactOf (f : FpFormat) (m : ℕ) (e : ℤ) : Bool :=
  decide (m * 2 ^ (e - quantumOf f m e).toNat % 2 ^ (quantumOf f m e - e).toNat ≠ 0)

/-- m * 2 ^ e, rounded with exponents unbounded, is below the smallest normal number. -/
def tinyOf (f : FpFormat) (rm : BitVec 2) (neg : Bool) (m : ℕ) (e : ℤ) : Bool :=
  decide (topOf m e + (if roundAt rm neg m e (wideOf f m e) = 2 ^ (f.fracBits + 1) then 1 else 0) < 1 - (f.bias : ℤ))

theorem fpRound_eq (enabled : Bool) :
    fpRound f rm enabled neg m e =
      let r := carry f (roundAt rm neg m e (quantumOf f m e)) (quantumOf f m e)
      if (f.bias : ℤ) < r.2 + f.fracBits then fpOverflow f rm neg
      else ⟨{ FpConds.none with
                underflow := tinyOf f rm neg m e && (inexactOf f m e || enabled), inexact := inexactOf f m e },
        packAt f neg r.1 r.2⟩ := rfl

theorem fpUnpack_packAt (hf : f.Sound) (c : Bool) {n : ℕ} {place : ℤ} (hn : n < 2 ^ (f.fracBits + 1))
    (least : 1 - (f.bias : ℤ) - f.fracBits ≤ place) (most : place + f.fracBits ≤ f.bias)
    (subnormal : n < 2 ^ f.fracBits → place = 1 - (f.bias : ℤ) - f.fracBits) :
    fpUnpack f c (packAt f neg n place) = .fin neg n place := by
  have emax := hf.maxExp_eq
  rw [packAt]
  split
  · rename_i small
    rw [fpUnpack_fpPack hf c neg (Nat.zero_le _) small, if_neg (by omega), if_pos rfl, subnormal small]
  · rename_i large
    rw [fpUnpack_fpPack hf c neg (by omega) (by rw [pow_succ] at hn; omega), if_neg (by omega), if_neg (by omega)]
    congr 1 <;> omega

section
variable {n : ℕ} {place : ℤ}

theorem carry_grown (h : n = 2 ^ (f.fracBits + 1)) : carry f n place = (2 ^ f.fracBits, place + 1) := by
  simp [carry, h]

theorem carry_same (h : n ≠ 2 ^ (f.fracBits + 1)) : carry f n place = (n, place) := by simp [carry, h]

theorem carry_value : ((carry f n place).1 : ℝ) * 2 ^ (carry f n place).2 = n * 2 ^ place := by
  by_cases grown : n = 2 ^ (f.fracBits + 1)
  · rw [carry_grown grown, grown, zpow_add_one₀ two_ne_zero]
    push_cast
    ring
  · rw [carry_same grown]

theorem carry_place : place ≤ (carry f n place).2 := by
  by_cases grown : n = 2 ^ (f.fracBits + 1)
  · simp [carry_grown grown]
  · simp [carry_same grown]

theorem carry_even (hf : f.Sound) (h : n % 2 = 0) : (carry f n place).1 % 2 = 0 := by
  by_cases grown : n = 2 ^ (f.fracBits + 1)
  · obtain ⟨k, hk⟩ := Nat.exists_eq_add_of_le hf.fractions
    simp [carry_grown grown, hk, pow_add, Nat.mul_mod]
  · rwa [carry_same grown]

theorem carry_lt (h : n ≤ 2 ^ (f.fracBits + 1)) : (carry f n place).1 < 2 ^ (f.fracBits + 1) := by
  by_cases grown : n = 2 ^ (f.fracBits + 1)
  · rw [carry_grown grown]
    exact Nat.pow_lt_pow_right (by omega) (by omega)
  · rw [carry_same grown]
    exact lt_of_le_of_ne h grown

theorem carry_small (h : (carry f n place).1 < 2 ^ f.fracBits) : n < 2 ^ f.fracBits ∧ (carry f n place).2 = place := by
  by_cases grown : n = 2 ^ (f.fracBits + 1)
  · rw [carry_grown grown] at h
    exact absurd h (lt_irrefl _)
  · rw [carry_same grown] at h ⊢
    exact ⟨h, rfl⟩

end

end

section
variable {f : FpFormat} {rm : BitVec 2} {neg : Bool} {m : ℕ} {e : ℤ} {y : ℝ}

/-- The last place is that of a normal number, or the format's least. -/
theorem quantumOf_cases (f : FpFormat) (m : ℕ) (e : ℤ) :
    quantumOf f m e = wideOf f m e ∨ (quantumOf f m e = 1 - (f.bias : ℤ) - f.fracBits ∧ wideOf f m e < quantumOf f m e) := by
  unfold quantumOf
  omega

theorem wideOf_le_quantumOf (f : FpFormat) (m : ℕ) (e : ℤ) : wideOf f m e ≤ quantumOf f m e := le_max_left ..

theorem least_le_quantumOf (f : FpFormat) (m : ℕ) (e : ℤ) : 1 - (f.bias : ℤ) - f.fracBits ≤ quantumOf f m e :=
  le_max_right ..

theorem two_zpow_topOf (f : FpFormat) (m : ℕ) (e : ℤ) (k : ℕ) :
    (2 : ℝ) ^ (topOf m e + k) = (2 ^ (f.fracBits + k) : ℕ) * 2 ^ wideOf f m e := by
  rw [two_zpow_of_le (a := wideOf f m e) (b := topOf m e + k) (by simp only [wideOf]; omega)]
  congr 3
  simp only [wideOf]
  omega

theorem tinyOf_iff : tinyOf f rm neg m e = true ↔ ¬ (1 - (f.bias : ℤ) ≤ topOf m e
    ∨ (1 - (f.bias : ℤ) = topOf m e + 1 ∧ roundAt rm neg m e (wideOf f m e) = 2 ^ (f.fracBits + 1))) := by
  rw [tinyOf, decide_eq_true_iff]
  by_cases grown : roundAt rm neg m e (wideOf f m e) = 2 ^ (f.fracBits + 1)
  · rw [if_pos grown, and_iff_left grown]
    omega
  · rw [if_neg grown]
    simp only [grown, and_false, or_false]
    omega

variable (h : StandsFor f m e y)
include h

theorem StandsFor.mant_le : roundAt rm neg m e (quantumOf f m e) ≤ 2 ^ (f.fracBits + 1) := by
  refine (h.roundsMag (wideOf_le_quantumOf f m e)).le_of_lt ?_
  rw [div_lt_iff₀ (by positivity)]
  calc y < _ := h.lt_two_zpow_top
    _ = (2 ^ (f.fracBits + 1) : ℕ) * 2 ^ wideOf f m e := two_zpow_topOf f m e 1
    _ ≤ _ := mul_le_mul_of_nonneg_left (zpow_le_zpow_right₀ one_le_two (wideOf_le_quantumOf f m e)) (by positivity)

/-- A number with fewer than the format's digits does not grow past them. -/
theorem StandsFor.mant_le_of_wide_lt (sub : wideOf f m e < quantumOf f m e) :
    roundAt rm neg m e (quantumOf f m e) ≤ 2 ^ f.fracBits := by
  refine (h.roundsMag (wideOf_le_quantumOf f m e)).le_of_lt ?_
  rw [div_lt_iff₀ (by positivity)]
  calc y < _ := h.lt_two_zpow_top
    _ = (2 ^ f.fracBits : ℕ) * 2 ^ (wideOf f m e + 1) := by
        rw [show topOf m e + 1 = topOf m e + (1 : ℕ) from rfl, two_zpow_topOf f m e 1, zpow_add_one₀ two_ne_zero]
        push_cast
        ring
    _ ≤ _ := mul_le_mul_of_nonneg_left (zpow_le_zpow_right₀ one_le_two sub) (by positivity)

/-- What fpRound takes for an overflow. -/
theorem StandsFor.overflow_iff (hf : f.Sound) :
    (f.bias : ℤ) < (carry f (roundAt rm neg m e (quantumOf f m e)) (quantumOf f m e)).2 + f.fracBits
      ↔ (f.bias : ℤ) + 1 ≤ topOf m e
        ∨ ((f.bias : ℤ) + 1 = topOf m e + 1 ∧ roundAt rm neg m e (wideOf f m e) = 2 ^ (f.fracBits + 1)) := by
  have bias := hf.one_le_bias
  have place : wideOf f m e = topOf m e - f.fracBits := rfl
  rcases quantumOf_cases f m e with normal | ⟨least, sub⟩
  · rw [normal]
    by_cases grown : roundAt rm neg m e (wideOf f m e) = 2 ^ (f.fracBits + 1)
    · rw [carry_grown grown]
      simp only [grown, and_true]
      omega
    · rw [carry_same grown]
      simp only [grown, and_false, or_false]
      omega
  · have small := h.mant_le_of_wide_lt (rm := rm) (neg := neg) sub
    have same : roundAt rm neg m e (quantumOf f m e) ≠ 2 ^ (f.fracBits + 1) := by
      have := Nat.pow_lt_pow_right (a := 2) (by omega) (Nat.lt_succ_self f.fracBits)
      omega
    rw [carry_same same]
    omega

variable (hm : m ≠ 0)
include hm

theorem StandsFor.two_pow_le_div : ((2 ^ f.fracBits : ℕ) : ℝ) ≤ y / 2 ^ wideOf f m e := by
  rw [le_div_iff₀ (by positivity), ← add_zero f.fracBits, ← two_zpow_topOf f m e 0]
  simpa using h.two_zpow_top_le hm

/-- The numbers of the format leave a gap about y. -/
theorem StandsFor.gap (w : BitVec 64) (q : ℕ) (hlt : y < q * 2 ^ quantumOf f m e + 2 ^ quantumOf f m e) :
    Gap (q * 2 ^ quantumOf f m e) (2 ^ quantumOf f m e) (patternValue f w) := by
  refine gap_patternValue w ?_
  rcases quantumOf_cases f m e with normal | ⟨least, -⟩
  · rw [← add_one_mul, ← div_lt_iff₀ (by positivity), normal] at hlt
    have : 2 ^ f.fracBits < q + 1 := by exact_mod_cast (h.two_pow_le_div hm).trans_lt hlt
    exact .inr (by omega)
  · exact .inl least

/-- fpRound's result where it does not overflow. -/
theorem StandsFor.roundsTo (hf : f.Sound) {out : FpOut}
    (fits : ¬ (f.bias : ℤ) < (carry f (roundAt rm neg m e (quantumOf f m e)) (quantumOf f m e)).2 + f.fracBits)
    (value : out.value =
      let r := carry f (roundAt rm neg m e (quantumOf f m e)) (quantumOf f m e)
      packAt f neg r.1 r.2)
    (inexact : out.conds.inexact = inexactOf f m e) : RoundsTo f rm (signedReal neg y) out := by
  have positive : 0 < y := lt_of_lt_of_le (by positivity) (h.two_zpow_top_le hm)
  have rounds : RoundsMag rm neg (y / 2 ^ quantumOf f m e) (roundAt rm neg m e (quantumOf f m e)) :=
    h.roundsMag (wideOf_le_quantumOf f m e)
  refine roundsTo_of_roundsMag positive (by positivity) rounds (m := (carry f _ _).1) (e := (carry f _ _).2) ?unpack
    carry_value (zpow_le_zpow_right₀ one_le_two carry_place) (carry_even hf) ?inexact
    (fun w q _ hlt => h.gap hm w q hlt)
  case unpack =>
    rw [value]
    refine fpUnpack_packAt hf false (carry_lt h.mant_le) ((least_le_quantumOf f m e).trans carry_place) (not_lt.1 fits) ?_
    intro small
    obtain ⟨few, same⟩ := carry_small small
    rw [same]
    rcases quantumOf_cases f m e with normal | ⟨least, -⟩
    · rw [normal] at few rounds
      have := rounds.le_of_le (h.two_pow_le_div hm)
      omega
    · exact least
  case inexact =>
    rw [inexact, inexactOf, decide_eq_true_iff, ne_eq, h.exact_iff (wideOf_le_quantumOf f m e)]

/-- fpRound gives the whole result of rounding any number that m * 2 ^ e stands for. -/
theorem StandsFor.rounded (hf : f.Sound) (enabled : Bool) :
    Rounded f rm enabled (signedReal neg y) (fpRound f rm enabled neg m e) := by
  have positive : 0 < y := lt_of_lt_of_le (by positivity) (h.two_zpow_top_le hm)
  have bias := hf.one_le_bias
  have exceeds := h.overflow_iff (rm := rm) (neg := neg) hf
  have tiny := h.roundsUpTo_iff (rm := rm) (neg := neg) hm (1 - (f.bias : ℤ)) (u := -(f.bias : ℤ) - f.fracBits)
    (by omega)
  rw [Rounded, h.roundsUpTo_iff hm ((f.bias : ℤ) + 1) (by omega), tiny, ← exceeds, ← tinyOf_iff]
  by_cases overflows : (f.bias : ℤ)
      < (carry f (roundAt rm neg m e (quantumOf f m e)) (quantumOf f m e)).2 + f.fracBits
  · have result : fpRound f rm enabled neg m e = fpOverflow f rm neg := (fpRound_eq enabled).trans (if_pos overflows)
    have large : ¬ tinyOf f rm neg m e = true := by
      rw [tinyOf_iff, not_not]
      have := exceeds.1 overflows
      omega
    rw [result]
    exact ⟨iff_of_true rfl overflows, fun _ => ⟨neg, signedReal_neg_iff positive, rfl⟩, nofun,
      iff_of_false nofun fun t => large t.1, rfl, rfl, rfl⟩
  · rw [fpRound_eq]
    simp only [if_neg overflows]
    refine ⟨iff_of_false nofun overflows, nofun, fun _ => h.roundsTo hm hf overflows rfl rfl, ?_, rfl, rfl, rfl⟩
    simp

end

/-! ## The number itself -/

theorem standsFor_self (f : FpFormat) (m : ℕ) (e : ℤ) : StandsFor f m e (m * 2 ^ e) := AlikeTo.refl _ _

theorem signedReal_value (neg : Bool) (m : ℕ) (e : ℤ) :
    (((FpVal.fin neg m e).value : ℚ) : ℝ) = signedReal neg (m * 2 ^ e) := by
  rw [FpVal.value]
  cases neg <;> simp

/-- What R303 gives for an overflow. -/
theorem fpUnpack_fpOverflow {f : FpFormat} (hf : f.Sound) (n : Bool) (rm : BitVec 2) (neg : Bool) :
    fpUnpack f n (fpOverflow f rm neg).value =
      if rm = 0 ∨ (rm = 2 ∧ neg = false) ∨ (rm = 3 ∧ neg = true) then .inf neg
      else .fin neg (2 ^ (f.fracBits + 1) - 1) ((f.bias : ℤ) - f.fracBits) := by
  have most : fpUnpack f n (fpMax f neg) = .fin neg (2 ^ (f.fracBits + 1) - 1) ((f.bias : ℤ) - f.fracBits) := by
    have emax := hf.maxExp_eq
    have bias := hf.one_le_bias
    have room := Nat.two_pow_pos f.fracBits
    rw [fpMax, fpUnpack_fpPack hf n neg (by omega) (by omega), if_neg (by omega), if_neg (by omega), pow_succ]
    congr 1 <;> omega
  have infinite := fpUnpack_fpInf hf n neg
  refine forall_mode (P := fun rm => fpUnpack f n (fpOverflow f rm neg).value = if rm = 0 ∨ (rm = 2 ∧ neg = false)
    ∨ (rm = 3 ∧ neg = true) then .inf neg else .fin neg (2 ^ (f.fracBits + 1) - 1) ((f.bias : ℤ) - f.fracBits))
    ?_ ?_ ?_ ?_ rm
  · exact infinite
  · exact most
  · cases neg
    · exact infinite
    · exact most
  · cases neg
    · exact most
    · exact infinite

/-- Settles O42. -/
theorem fpRounding : Obligations.FpRounding := by
  intro f hf rm enabled neg m e hm
  have sound := FpFormat.sound_of_mem hf
  rw [signedReal_value]
  exact ⟨(standsFor_self f m e).rounded hm sound enabled, rfl, fun n => fpUnpack_fpOverflow sound n rm neg⟩

end Sys2Proof.Machine
end

section
/-! The arithmetic operations (spec/49_fpu_arith.md R307 to R311, R316, R317): each is the exact result rounded once. -/
namespace Sys2Proof.Machine

/-! ## Signs -/

/-- An integer number of units is its magnitude with its sign. -/
theorem cast_mul_eq_signedReal (n e : ℤ) :
    (n : ℝ) * 2 ^ e = signedReal (decide (n < 0)) (n.natAbs * 2 ^ e) := by
  rw [Nat.cast_natAbs, Int.cast_abs]
  by_cases h : n < 0
  · have : (n : ℝ) < 0 := by exact_mod_cast h
    simp [h, abs_of_neg this]
  · have : (0 : ℝ) ≤ n := by exact_mod_cast not_lt.1 h
    simp [h, abs_of_nonneg this]

theorem FpVal.value_negate (neg : Bool) (m : ℕ) (e : ℤ) : (FpVal.fin (!neg) m e).value = -(FpVal.fin neg m e).value := by
  cases neg <;> simp [FpVal.value]

theorem signedReal_mul (na nb : Bool) (x y : ℝ) : signedReal na x * signedReal nb y = signedReal (na != nb) (x * y) := by
  cases na <;> cases nb <;> simp

theorem signedReal_div (na nb : Bool) (x y : ℝ) : signedReal na x / signedReal nb y = signedReal (na != nb) (x / y) := by
  cases na <;> cases nb <;> simp [div_neg, neg_div]

/-! ## A quotient or root kept to some digits, with a last one that says whether anything is left over -/

/-- The digits q of y down to a place, and a last digit that is 1 where y is larger. -/
structure Sticky (q rest : ℕ) (place : ℤ) (y : ℝ) : Prop where
  /-- The digits are no more than y. -/
  le : q * 2 ^ place ≤ y
  /-- They reach to the place. -/
  lt : y < (q + 1) * 2 ^ place
  /-- The last digit says whether they are y. -/
  last : rest = if q * 2 ^ place = y then 0 else 1

/-- The digits and the last one, in units of half the place, stand alike to every multiple of the place as y does. -/
theorem Sticky.alikeTo {q rest : ℕ} {place : ℤ} {y : ℝ} (h : Sticky q rest place y) :
    AlikeTo (2 ^ place) ((2 * q + rest : ℕ) * 2 ^ (place - 1)) y := by
  have unit : (0 : ℝ) < 2 ^ place := by positivity
  have halves : ((2 * q + rest : ℕ) : ℝ) * 2 ^ (place - 1) = (q + rest / 2) * 2 ^ place := by
    rw [zpow_sub_one₀ two_ne_zero]
    push_cast
    ring
  intro k
  rw [halves, mul_le_mul_iff_left₀ unit, mul_le_mul_iff_left₀ unit]
  by_cases exact : q * 2 ^ place = y
  · have rest0 : rest = 0 := h.last.trans (if_pos exact)
    rw [← exact, mul_le_mul_iff_left₀ unit, mul_le_mul_iff_left₀ unit, rest0]
    simp
  · have rest1 : rest = 1 := h.last.trans (if_neg exact)
    have more : q * 2 ^ place < y := lt_of_le_of_ne h.le exact
    have below : (k : ℝ) ≤ q + 1 / 2 ↔ k ≤ q := by
      constructor
      · intro hk
        have : k < q + 1 := by exact_mod_cast (by linarith : (k : ℝ) < q + 1)
        omega
      · intro hk
        have : (k : ℝ) ≤ q := by exact_mod_cast hk
        linarith
    have above : (q : ℝ) + 1 / 2 ≤ k ↔ q + 1 ≤ k := by
      constructor
      · intro hk
        have : q < k := by exact_mod_cast (by linarith : (q : ℝ) < k)
        omega
      · intro hk
        have : (q : ℝ) + 1 ≤ k := by exact_mod_cast hk
        linarith
    have scaled {a b : ℕ} (hab : a ≤ b) : (a : ℝ) * 2 ^ place ≤ b * 2 ^ place :=
      mul_le_mul_of_nonneg_right (by exact_mod_cast hab) unit.le
    rw [rest1, Nat.cast_one, below, above]
    have next := h.lt
    rw [← Nat.cast_add_one] at next
    refine ⟨⟨fun hk => (scaled hk).trans h.le, fun hk => ?_⟩, ⟨fun hk => next.le.trans (scaled hk), fun hk => ?_⟩⟩
    · by_contra larger
      exact absurd (next.trans_le (scaled (by omega))) (not_lt.2 hk)
    · by_contra smaller
      exact absurd (more.trans_le hk) (not_lt.2 (scaled (by omega)))

/-- They stand for y where they are more than the format has. -/
theorem Sticky.standsFor {f : FpFormat} {q rest : ℕ} {place : ℤ} {y : ℝ} (h : Sticky q rest place y)
    (digits : 2 ^ (f.fracBits + 1) ≤ q) : StandsFor f (2 * q + rest) (place - 1) y := by
  have size : f.fracBits + 2 ≤ Nat.log2 (2 * q + rest) := by
    have := Nat.two_pow_pos (f.fracBits + 1)
    rw [Nat.le_log2 (by omega), pow_succ]
    omega
  refine AlikeTo.coarser ?_ h.alikeTo
  simp only [wideOf, topOf]
  omega

/-- The digits of a quotient. -/
theorem sticky_div (a : ℕ) {b : ℕ} (hb : b ≠ 0) (place : ℤ) :
    Sticky (a / b) (if a % b = 0 then 0 else 1) place (a / b * 2 ^ place) := by
  have unit : (0 : ℝ) < 2 ^ place := by positivity
  have divisor : (0 : ℝ) < b := by positivity
  refine ⟨mul_le_mul_of_nonneg_right Nat.cast_div_le unit.le, ?_, ?_⟩
  · rw [mul_lt_mul_iff_left₀ unit, div_lt_iff₀ divisor]
    rw [mul_comm]
    exact_mod_cast Nat.lt_mul_div_succ a (Nat.pos_of_ne_zero hb)
  · refine if_congr ?_ rfl rfl
    have split := Nat.div_add_mod' a b
    rw [mul_left_inj' unit.ne', eq_div_iff divisor.ne', ← Nat.cast_mul, Nat.cast_inj]
    omega

/-! ## The integer square root -/

/-- From a root that is right down to bit k, the digits below it. -/
theorem isqrtFrom_spec {n : ℕ} : ∀ {k root : ℕ}, root * root ≤ n → n < (root + 2 ^ k) * (root + 2 ^ k) →
    isqrtFrom k n root * isqrtFrom k n root ≤ n ∧ n < (isqrtFrom k n root + 1) * (isqrtFrom k n root + 1)
  | 0, _, hle, hlt => ⟨hle, hlt⟩
  | k + 1, root, hle, hlt => by
    rw [isqrtFrom]
    split
    · exact isqrtFrom_spec ‹_› (by rwa [add_assoc, ← two_mul, ← pow_succ'])
    · exact isqrtFrom_spec hle (not_le.1 ‹_›)

/-- fpSqrt's digits are the integer square root. -/
theorem isqrtFrom_eq_sqrt (n : ℕ) : isqrtFrom (Nat.log2 n / 2 + 1) n 0 = Nat.sqrt n := by
  have bits : n < (0 + 2 ^ (Nat.log2 n / 2 + 1)) * (0 + 2 ^ (Nat.log2 n / 2 + 1)) := by
    rw [zero_add, ← pow_add]
    exact Nat.lt_log2_self.trans_le (Nat.pow_le_pow_right two_pos (by omega))
  exact Nat.eq_sqrt.2 (isqrtFrom_spec (by simp) bits)

/-- The digits of a square root. -/
theorem sticky_sqrt (n : ℕ) (place : ℤ) :
    Sticky (Nat.sqrt n) (if Nat.sqrt n * Nat.sqrt n = n then 0 else 1) place (Real.sqrt n * 2 ^ place) := by
  have unit : (0 : ℝ) < 2 ^ place := by positivity
  refine ⟨mul_le_mul_of_nonneg_right Real.nat_sqrt_le_real_sqrt unit.le, ?_, ?_⟩
  · rw [mul_lt_mul_iff_left₀ unit]
    exact Real.real_sqrt_lt_nat_sqrt_succ
  · refine if_congr ?_ rfl rfl
    rw [mul_left_inj' unit.ne', eq_comm (b := Real.sqrt n), Real.sqrt_eq_iff_mul_self_eq (by positivity) (by positivity)]
    norm_cast
    exact eq_comm

/-! ## The operations -/

/-- The result is the exact number r rounded once, or the zero of this sign (spec/49_fpu_arith.md R300). -/
def Gives (env : FpEnv) (f : FpFormat) (out : FpOut) (r : ℝ) (zeroNeg : Bool) : Prop :=
  (r ≠ 0 → Rounded f env.rm env.underflowEnabled r out) ∧ (r = 0 → out = ⟨.none, fpZero f zeroNeg⟩)

section
variable {env : FpEnv} {f : FpFormat} (hf : f.Sound) {zeroNeg neg : Bool} {m : ℕ} {e : ℤ} {r y : ℝ}

theorem gives_zero (hr : r = 0) : Gives env f (fpExact (fpZero f zeroNeg)) r zeroNeg :=
  ⟨fun nonzero => absurd hr nonzero, fun _ => rfl⟩

include hf

/-- A rounding of a number that stands for the exact result. -/
theorem gives_fpRound (h : StandsFor f m e y) (hm : m ≠ 0) (hr : r = signedReal neg y) :
    Gives env f (fpRound f env.rm env.underflowEnabled neg m e) r zeroNeg := by
  have positive : 0 < y := lt_of_lt_of_le (by positivity) (h.two_zpow_top_le hm)
  refine ⟨fun _ => hr ▸ h.rounded hm hf _, fun zero => ?_⟩
  have size : |r| = y := by rw [hr, abs_signedReal, abs_of_pos positive]
  simp [zero, positive.ne] at size

/-- The exact result m * 2 ^ e, rounded or a zero. -/
theorem gives_fpRoundOrZero (hr : r = signedReal neg (m * 2 ^ e)) :
    Gives env f (fpRoundOrZero env f zeroNeg neg m e) r zeroNeg := by
  rw [fpRoundOrZero]
  split
  · exact gives_zero (by cases neg <;> simp [*])
  · exact gives_fpRound hf (standsFor_self f m e) ‹_› hr

variable (na nb : Bool) (ma mb : ℕ) (ea eb : ℤ)

theorem fpAdd_gives :
    Gives env f (fpAdd env f (.fin na ma ea) (.fin nb mb eb))
      (((FpVal.fin na ma ea).value : ℚ) + ((FpVal.fin nb mb eb).value : ℚ))
      (if na = nb then na else decide (env.rm = 3)) := by
  refine gives_fpRoundOrZero hf (Eq.trans ?_ (cast_mul_eq_signedReal (signedInt na (ma * 2 ^ (ea - min ea eb).toNat)
    + signedInt nb (mb * 2 ^ (eb - min ea eb).toNat)) (min ea eb)))
  rw [FpVal.value_eq_scaled na ma (min_le_left ea eb), FpVal.value_eq_scaled nb mb (min_le_right ea eb), Int.cast_add,
    add_mul]
  push_cast
  rfl

theorem fpSub_gives :
    Gives env f (fpSub env f (.fin na ma ea) (.fin nb mb eb))
      (((FpVal.fin na ma ea).value : ℚ) - ((FpVal.fin nb mb eb).value : ℚ))
      (if na = !nb then na else decide (env.rm = 3)) := by
  have sum := fpAdd_gives (env := env) hf na (!nb) ma mb ea eb
  rwa [FpVal.value_negate, Rat.cast_neg, ← sub_eq_add_neg] at sum

theorem fpMul_gives :
    Gives env f (fpMul env f (.fin na ma ea) (.fin nb mb eb))
      (((FpVal.fin na ma ea).value : ℚ) * ((FpVal.fin nb mb eb).value : ℚ)) (na != nb) := by
  refine gives_fpRoundOrZero hf ?_
  rw [signedReal_value, signedReal_value, signedReal_mul, zpow_add₀ two_ne_zero]
  push_cast
  congr 1
  ring

theorem fpConvert_gives : Gives env f (fpConvert env f (.fin na ma ea)) ((FpVal.fin na ma ea).value : ℚ) na :=
  gives_fpRoundOrZero hf (signedReal_value na ma ea)

/-- The quotient, whose dividend is scaled up so that it has more digits than the format. -/
theorem fpDiv_gives (hb : mb ≠ 0) :
    Gives env f (fpDiv env f (.fin na ma ea) (.fin nb mb eb))
      (((FpVal.fin na ma ea).value : ℚ) / ((FpVal.fin nb mb eb).value : ℚ)) (na != nb) := by
  let k := f.fracBits + 4 + Nat.log2 mb
  let q := ma * 2 ^ k / mb
  let rest := if ma * 2 ^ k % mb = 0 then 0 else 1
  have run : fpDiv env f (.fin na ma ea) (.fin nb mb eb) =
      fpRoundOrZero env f (na != nb) (na != nb) (2 * q + rest) (ea - eb - k - 1) := if_neg hb
  have quotient : ma * 2 ^ ea / (mb * 2 ^ eb) = ((ma * 2 ^ k : ℕ) : ℝ) / mb * 2 ^ (ea - eb - k) := by
    rw [zpow_sub₀ two_ne_zero, zpow_sub₀ two_ne_zero, zpow_natCast]
    push_cast
    field_simp
  have sticky : Sticky q rest (ea - eb - k) (ma * 2 ^ ea / (mb * 2 ^ eb)) := quotient ▸ sticky_div _ hb _
  rcases eq_or_ne ma 0 with rfl | ha
  · have nothing : 2 * q + rest = 0 := by simp [q, rest]
    rw [run, nothing, fpRoundOrZero, if_pos rfl]
    exact gives_zero (by simp [FpVal.value])
  · have digits : 2 ^ (f.fracBits + 1) ≤ q := by
      rw [Nat.le_div_iff_mul_le (Nat.pos_of_ne_zero hb)]
      calc 2 ^ (f.fracBits + 1) * mb ≤ 2 ^ (f.fracBits + 1) * 2 ^ (Nat.log2 mb + 1) :=
            Nat.mul_le_mul_left _ Nat.lt_log2_self.le
        _ = 2 ^ (f.fracBits + 1 + (Nat.log2 mb + 1)) := (pow_add ..).symm
        _ ≤ 2 ^ k := Nat.pow_le_pow_right two_pos (by omega)
        _ ≤ ma * 2 ^ k := Nat.le_mul_of_pos_left _ (Nat.pos_of_ne_zero ha)
    have nonzero : 2 * q + rest ≠ 0 := by
      have := Nat.two_pow_pos (f.fracBits + 1)
      omega
    rw [run, signedReal_value, signedReal_value, signedReal_div, fpRoundOrZero, if_neg nonzero]
    exact gives_fpRound hf (sticky.standsFor digits) nonzero rfl

/-- The root, whose operand is scaled by an even number of places. -/
theorem fpSqrt_gives (h : na = false ∨ ma = 0) :
    Gives env f (fpSqrt env f (.fin na ma ea)) (Real.sqrt ((FpVal.fin na ma ea).value : ℚ)) na := by
  rcases eq_or_ne ma 0 with rfl | ha
  · exact gives_zero (by simp [FpVal.value])
  obtain rfl : na = false := h.resolve_right ha
  let s := 2 * (f.fracBits + 4) + (ea % 2).toNat
  let n := ma * 2 ^ s
  let rest := if Nat.sqrt n * Nat.sqrt n = n then 0 else 1
  let place := (ea - s) / 2
  have run : fpSqrt env f (.fin false ma ea) =
      fpRound f env.rm env.underflowEnabled false (2 * Nat.sqrt n + rest) (place - 1) := by
    simp only [fpSqrt, if_neg ha, isqrtFrom_eq_sqrt]
    rfl
  have even : (ea - s : ℤ) = place * 2 := by omega
  have root : Real.sqrt (ma * 2 ^ ea) = Real.sqrt n * 2 ^ place := by
    have scaled : (ma : ℝ) * 2 ^ ea = n * (2 ^ place) ^ 2 := by
      rw [← zpow_natCast ((2 : ℝ) ^ place), ← zpow_mul, Nat.cast_ofNat, ← even, zpow_sub₀ two_ne_zero, zpow_natCast]
      push_cast [n]
      field_simp
    rw [scaled, Real.sqrt_mul (Nat.cast_nonneg _), Real.sqrt_sq (by positivity)]
  have digits : 2 ^ (f.fracBits + 1) ≤ Nat.sqrt n := by
    rw [Nat.le_sqrt, ← pow_add]
    calc 2 ^ (f.fracBits + 1 + (f.fracBits + 1)) ≤ 2 ^ s := Nat.pow_le_pow_right two_pos (by omega)
      _ ≤ n := Nat.le_mul_of_pos_left _ (Nat.pos_of_ne_zero ha)
  have nonzero : 2 * Nat.sqrt n + rest ≠ 0 := by
    have := Nat.two_pow_pos (f.fracBits + 1)
    omega
  rw [run, signedReal_value, signedReal_false, root]
  exact gives_fpRound hf ((sticky_sqrt n place).standsFor digits) nonzero rfl

end

/-- Settles O43. -/
theorem fpArithmeticRounds : Obligations.FpArithmeticRounds := by
  intro f hf env na nb ma mb ea eb a b x y zero gives
  have sound := FpFormat.sound_of_mem hf
  exact ⟨fpAdd_gives sound na nb ma mb ea eb, fpSub_gives sound na nb ma mb ea eb, fpMul_gives sound na nb ma mb ea eb,
    fpDiv_gives sound na nb ma mb ea eb, fpSqrt_gives sound na ma ea, fpConvert_gives sound na ma ea⟩

end Sys2Proof.Machine
end
